-- ==== Sys2Proof/Word.lean ====
section
/-! DEFINITION. The word types of the block: its registers and bus bytes (8 bits), its delay counter
(32 bits), its buffer counters (9 bits) and the one-bit side. -/

namespace Sys2Proof

/-- One register, one bus transfer, one buffer element, one byte of an image store (R11, R54, R56). -/
abbrev Byte := BitVec 8

/-- The delay counter and a `TICK` argument: `DELAY_WIDTH` = 32 bits (R5, R19). -/
abbrev Ticks := BitVec 32

/-- The buffer position and length, 9 bits (R20). -/
abbrev BufCount := BitVec 9

/-- A drive number, the 2-bit field of `CR` and of `ATTACH` and `DETACH` (R24, R77, R80). -/
abbrev Drive := BitVec 2

/-- A side number, 1 bit (R22, R24). -/
abbrev Side := BitVec 1

/-- A register select, 3 bits (R71). -/
abbrev Select := BitVec 3

/-- A staging buffer of 256 zero bytes (R20, R121). -/
def zeroBuffer : List Byte := List.replicate 256 0x00

@[simp] theorem zeroBuffer_length : zeroBuffer.length = 256 := List.length_replicate

end Sys2Proof
end

