-- ==== Sys2Proof/Assembly.lean ====
section
/-! DEFINITION. The assembly language of rules R81 and R82 as data: one term per line. The numbers are
naturals as a text gives them; Sys2Proof/WellFormed.lean says which lines are well formed, and
Sys2Proof/Machine/Assembler.lean reads the text of a line and expands it into operations. -/

namespace Sys2Proof

/-- The `<reg>` of a line (R81). `status` is read only and `command` is write only. -/
inductive AsmReg where
  | status
  | command
  | track
  | sector
  | data
  | control
  | number (n : Nat)
  deriving DecidableEq, Repr

/-- The command classes of rule R73, which are also the `<mnemonic>`s of a `CMD` line (R81). -/
inductive CommandClass where
  | restore
  | seek
  | step
  | stepIn
  | stepOut
  | rdSec
  | wrSec
  | rdAddr
  | forceInt
  | other
  deriving DecidableEq, Repr

/-- One line: the six operations of rule R81, its `CMD` form, and the pseudo-instructions of rule R82.
The image of an `ATTACH` line is given by its index in the image table. -/
inductive AsmLine where
  | rd (r : AsmReg)
  | wr (r : AsmReg) (v : Nat)
  | tick (n : Nat)
  | attach (d : Nat) (image : Nat)
  | detach (d : Nat)
  | reset
  | cmd (c : CommandClass) (flags : Nat)
  | seekTo (t : Nat)
  | select (d : Nat) (s : Nat)
  | setAddr (t : Nat) (n : Nat)
  | readN (k : Nat)
  | writeN (k : Nat) (b : Nat)
  | wait
  deriving DecidableEq, Repr

end Sys2Proof
end

