-- ==== Sys2Proof/Syntax.lean ====
section
/-! DEFINITION. The operations of the block: one constructor per row of spec/opcode_table.json, in the
table's order. Every bit of a row's word that the row does not fix is an operand, the bits a rule
ignores among them (`x` and `d` below): they are part of the word, and `CMDR` stores them (R75). -/

namespace Sys2Proof

/-- One operation. The first ten are command bytes (8 bits, R72 and R73), the next sixteen are bus
transactions (12 bits, R70 and R71), the last six are stimulus words (40 bits, R80). -/
inductive Instr where
  /-- `0000xxxx` (R110). -/
  | restore (x : BitVec 4)
  /-- `0001xxxx` (R111). -/
  | seek (x : BitVec 4)
  /-- `001xxxxx` (R112). -/
  | step (x : BitVec 5)
  /-- `010xxxxx` (R113). -/
  | stepIn (x : BitVec 5)
  /-- `011xxxxx` (R114). -/
  | stepOut (x : BitVec 5)
  /-- `100xxxxx` (R120). -/
  | rdSec (x : BitVec 5)
  /-- `101xxxxx` (R121). -/
  | wrSec (x : BitVec 5)
  /-- `1100xxxx` (R122). -/
  | rdAddr (x : BitVec 4)
  /-- `1101ixxx`, `i` the immediate-interrupt request (R135). -/
  | forceInt (i : Bool) (x : BitVec 3)
  /-- `111xxxxx` (R136). -/
  | other (x : BitVec 5)
  /-- Bus read of `STATUS`; `d` is the ignored data field of the request (R70, R90). -/
  | rdStatus (d : Byte)
  /-- Bus read of `TRACK` (R91). -/
  | rdTrack (d : Byte)
  /-- Bus read of `SECTOR` (R92). -/
  | rdSector (d : Byte)
  /-- Bus read of `DATA` (R93). -/
  | rdData (d : Byte)
  /-- Bus read of `CONTROL` (R94). -/
  | rdControl (d : Byte)
  /-- Bus read of the unmapped select 5 (R95). -/
  | rdUnmapped5 (d : Byte)
  /-- Bus read of the unmapped select 6 (R95). -/
  | rdUnmapped6 (d : Byte)
  /-- Bus read of the unmapped select 7 (R95). -/
  | rdUnmapped7 (d : Byte)
  /-- Bus write of the command byte `v` (R96). -/
  | wrCmd (v : Byte)
  /-- Bus write of `TRACK` (R97). -/
  | wrTrack (v : Byte)
  /-- Bus write of `SECTOR` (R98). -/
  | wrSector (v : Byte)
  /-- Bus write of `DATA` (R99). -/
  | wrData (v : Byte)
  /-- Bus write of `CONTROL` (R100). -/
  | wrControl (v : Byte)
  /-- Bus write to the unmapped select 5 (R101). -/
  | wrUnmapped5 (v : Byte)
  /-- Bus write to the unmapped select 6 (R101). -/
  | wrUnmapped6 (v : Byte)
  /-- Bus write to the unmapped select 7 (R101). -/
  | wrUnmapped7 (v : Byte)
  /-- Stimulus `RD r` (R80). -/
  | stimRd (r : Select)
  /-- Stimulus `WR r, v` (R80). -/
  | stimWr (r : Select) (v : Byte)
  /-- `TICK n` (R140). -/
  | tick (n : Ticks)
  /-- `ATTACH d, img`, `m` the index of the image in the image table (R80, R141). -/
  | attach (d : Drive) (m : BitVec 32)
  /-- `DETACH d` (R142). -/
  | detach (d : Drive)
  /-- `RESET` (R170). -/
  | reset
  deriving DecidableEq, Repr

end Sys2Proof
end

