-- ==== Sys2Proof/WellFormed.lean ====
section
/-! DEFINITION. Well-formedness. An `Instr` needs no check: every operand has exactly the width its
encoding gives it, so every term of `Instr` is well formed. What can be ill formed is a 40-bit word
that claims to be a stimulus (R80) and a line of assembly (R81, R82); both checks are stated here
from the rules' own conditions, without the decoder. -/

namespace Sys2Proof

/-- `KIND`, bits 39 to 36 of a stimulus word (R80). -/
abbrev stimKind (w : BitVec 40) : BitVec 4 := w.extractLsb' 36 4

/-- `SEL`, bits 35 to 32 of a stimulus word (R80). -/
abbrev stimSel (w : BitVec 40) : BitVec 4 := w.extractLsb' 32 4

/-- `ARG`, bits 31 to 0 of a stimulus word (R80). -/
abbrev stimArg (w : BitVec 40) : BitVec 32 := w.extractLsb' 0 32

/-- The conditions the table of rule R80 puts on a word: `KIND` at most 5, and for each kind its "= 0"
and range conditions on `SEL` and `ARG`. -/
def stimulusWellFormed (w : BitVec 40) : Bool :=
  match (stimKind w).toNat with
  | 0 => (stimSel w).toNat < 8 && stimArg w == 0
  | 1 => (stimSel w).toNat < 8 && (stimArg w).toNat < 256
  | 2 => stimSel w == 0
  | 3 => (stimSel w).toNat < 4
  | 4 => (stimSel w).toNat < 4 && stimArg w == 0
  | 5 => stimSel w == 0 && stimArg w == 0
  | _ => false

/-- A register a `RD` line may name (R81): not `CMD`, and a number is 0 to 7. -/
def AsmReg.readable : AsmReg → Bool
  | .command => false
  | .number n => n < 8
  | _ => true

/-- A register a `WR` line may name (R81): not `STATUS`, and a number is 0 to 7. -/
def AsmReg.writable : AsmReg → Bool
  | .status => false
  | .number n => n < 8
  | _ => true

/-- The ranges of rules R81 and R82: bytes below 256, ticks below 2^32, drives 0 to 3, flags below 16,
a side 0 or 1, an image index of 32 bits (R80). -/
def AsmLine.wellFormed : AsmLine → Bool
  | .rd r => r.readable
  | .wr r v => r.writable && v < 256
  | .tick n => n < 4294967296
  | .attach d m => d < 4 && m < 4294967296
  | .detach d => d < 4
  | .reset => true
  | .cmd _ flags => flags < 16
  | .seekTo t => t < 256
  | .select d s => d < 4 && s < 2
  | .setAddr t n => t < 256 && n < 256
  | .readN _ => true
  | .writeN _ b => b < 256
  | .wait => true

end Sys2Proof
end

