-- ==== Sys2Proof/Decode.lean ====
section
/-! DEFINITION. The decoder, total on every word, and the encoder beside it. A request reaches the block
in one of the three formats of the opcode table: a command byte (R72), a 12-bit bus transaction (R70)
or a 40-bit stimulus word (R80). -/

namespace Sys2Proof

/-- One request word, in one of the table's three formats. A command byte on its own is the byte
written to `COMMAND` (R72; log entry 6). -/
inductive Request where
  | command (v : BitVec 8)
  | bus (w : BitVec 12)
  | stimulus (w : BitVec 40)
  deriving DecidableEq, Repr

/-- Why a word is not a stimulus (R80). -/
inductive Reject where
  /-- `KIND` is 0x6 to 0xF. -/
  | unassignedKind (kind : BitVec 4)
  /-- A "= 0" or range condition of the word's kind is broken. -/
  | conditionBroken (kind : BitVec 4)
  deriving DecidableEq, Repr

/-- The class of a command byte, by its high nibble: the map of rule R73, total over all 256 bytes. -/
def commandClass (v : Byte) : CommandClass :=
  match (v.extractLsb' 4 4).toNat with
  | 0x0 => .restore
  | 0x1 => .seek
  | 0x2 => .step
  | 0x3 => .step
  | 0x4 => .stepIn
  | 0x5 => .stepIn
  | 0x6 => .stepOut
  | 0x7 => .stepOut
  | 0x8 => .rdSec
  | 0x9 => .rdSec
  | 0xA => .wrSec
  | 0xB => .wrSec
  | 0xC => .rdAddr
  | 0xD => .forceInt
  | _ => .other

/-- A command byte as an operation (R72, R73). -/
def decodeCommand (v : Byte) : Instr :=
  match commandClass v with
  | .restore => .restore (v.extractLsb' 0 4)
  | .seek => .seek (v.extractLsb' 0 4)
  | .step => .step (v.extractLsb' 0 5)
  | .stepIn => .stepIn (v.extractLsb' 0 5)
  | .stepOut => .stepOut (v.extractLsb' 0 5)
  | .rdSec => .rdSec (v.extractLsb' 0 5)
  | .wrSec => .wrSec (v.extractLsb' 0 5)
  | .rdAddr => .rdAddr (v.extractLsb' 0 4)
  | .forceInt => .forceInt (v.getLsbD 3) (v.extractLsb' 0 3)
  | .other => .other (v.extractLsb' 0 5)

/-- The operation of a bus transaction with `W` and `SEL` in `k` (`W` on top) and the byte `d` (R70, R71). -/
def busRow (k : BitVec 4) (d : Byte) : Instr :=
  match k.toNat with
  | 0x0 => .rdStatus d
  | 0x1 => .rdTrack d
  | 0x2 => .rdSector d
  | 0x3 => .rdData d
  | 0x4 => .rdControl d
  | 0x5 => .rdUnmapped5 d
  | 0x6 => .rdUnmapped6 d
  | 0x7 => .rdUnmapped7 d
  | 0x8 => .wrCmd d
  | 0x9 => .wrTrack d
  | 0xA => .wrSector d
  | 0xB => .wrData d
  | 0xC => .wrControl d
  | 0xD => .wrUnmapped5 d
  | 0xE => .wrUnmapped6 d
  | _ => .wrUnmapped7 d

/-- A bus transaction as an operation (R70, R71). -/
def decodeBus (w : BitVec 12) : Instr := busRow (w.extractLsb' 8 4) (w.extractLsb' 0 8)

/-- The operation if its word's conditions hold (R80). -/
def stimulusIf (kind : BitVec 4) (ok : Bool) (i : Instr) : Except Reject Instr :=
  if ok then .ok i else .error (.conditionBroken kind)

/-- The operation of a stimulus with the given fields, or the reason there is none (R80). -/
def stimulusRow (kind sel : BitVec 4) (arg : BitVec 32) : Except Reject Instr :=
  match kind.toNat with
  | 0x0 => stimulusIf kind (!sel.getLsbD 3 && arg == 0) (.stimRd (sel.extractLsb' 0 3))
  | 0x1 => stimulusIf kind (!sel.getLsbD 3 && arg.extractLsb' 8 24 == 0)
      (.stimWr (sel.extractLsb' 0 3) (arg.extractLsb' 0 8))
  | 0x2 => stimulusIf kind (sel == 0) (.tick arg)
  | 0x3 => stimulusIf kind (sel.extractLsb' 2 2 == 0) (.attach (sel.extractLsb' 0 2) arg)
  | 0x4 => stimulusIf kind (sel.extractLsb' 2 2 == 0 && arg == 0) (.detach (sel.extractLsb' 0 2))
  | 0x5 => stimulusIf kind (sel == 0 && arg == 0) .reset
  | _ => .error (.unassignedKind kind)

/-- A stimulus word as an operation, or the reason it is none (R80). -/
def decodeStimulus (w : BitVec 40) : Except Reject Instr :=
  stimulusRow (w.extractLsb' 36 4) (w.extractLsb' 32 4) (w.extractLsb' 0 32)

/-- The decoder. Command bytes and bus transactions always decode (R73, R74, R71); a stimulus word may
be refused (R80). -/
def decode : Request → Except Reject Instr
  | .command v => .ok (decodeCommand v)
  | .bus w => .ok (decodeBus w)
  | .stimulus w => decodeStimulus w

/-- The encoder, written from the `encoding` column of the opcode table. -/
def encode : Instr → Request
  | .restore x => .command (0x0#4 ++ x)
  | .seek x => .command (0x1#4 ++ x)
  | .step x => .command (0b001#3 ++ x)
  | .stepIn x => .command (0b010#3 ++ x)
  | .stepOut x => .command (0b011#3 ++ x)
  | .rdSec x => .command (0b100#3 ++ x)
  | .wrSec x => .command (0b101#3 ++ x)
  | .rdAddr x => .command (0xC#4 ++ x)
  | .forceInt i x => .command (0xD#4 ++ (BitVec.ofBool i ++ x))
  | .other x => .command (0b111#3 ++ x)
  | .rdStatus d => .bus (0x0#4 ++ d)
  | .rdTrack d => .bus (0x1#4 ++ d)
  | .rdSector d => .bus (0x2#4 ++ d)
  | .rdData d => .bus (0x3#4 ++ d)
  | .rdControl d => .bus (0x4#4 ++ d)
  | .rdUnmapped5 d => .bus (0x5#4 ++ d)
  | .rdUnmapped6 d => .bus (0x6#4 ++ d)
  | .rdUnmapped7 d => .bus (0x7#4 ++ d)
  | .wrCmd v => .bus (0x8#4 ++ v)
  | .wrTrack v => .bus (0x9#4 ++ v)
  | .wrSector v => .bus (0xA#4 ++ v)
  | .wrData v => .bus (0xB#4 ++ v)
  | .wrControl v => .bus (0xC#4 ++ v)
  | .wrUnmapped5 v => .bus (0xD#4 ++ v)
  | .wrUnmapped6 v => .bus (0xE#4 ++ v)
  | .wrUnmapped7 v => .bus (0xF#4 ++ v)
  | .stimRd r => .stimulus (0x0#4 ++ (0#1 ++ r) ++ 0#32)
  | .stimWr r v => .stimulus (0x1#4 ++ (0#1 ++ r) ++ (0#24 ++ v))
  | .tick n => .stimulus (0x2#4 ++ 0#4 ++ n)
  | .attach d m => .stimulus (0x3#4 ++ (0#2 ++ d) ++ m)
  | .detach d => .stimulus (0x4#4 ++ (0#2 ++ d) ++ 0#32)
  | .reset => .stimulus (0x5#4 ++ 0#4 ++ 0#32)

/-- The request an opcode-table row's word stands for: rows of one byte are command bytes, rows of 12
bits (two whole bytes) bus transactions, longer rows stimulus words. `none` where the word has more
bits than its format. -/
def requestOf (nbits w : Nat) : Option Request :=
  if nbits ≤ 8 then (if w < 2 ^ 8 then some (.command (BitVec.ofNat 8 w)) else none)
  else if nbits ≤ 16 then (if w < 2 ^ 12 then some (.bus (BitVec.ofNat 12 w)) else none)
  else (if w < 2 ^ 40 then some (.stimulus (BitVec.ofNat 40 w)) else none)

/-- The instruction the decoder reads from a word of the opcode table. -/
def decodeTableWord (nbits w : Nat) : Option Instr :=
  match requestOf nbits w with
  | none => none
  | some r =>
    match decode r with
    | .ok i => some i
    | .error _ => none

end Sys2Proof
end

