-- ==== Sys2Proof/Config.lean ====
section
/-! DEFINITION. The parameters of rule R5: the fixed ones as constants, the open ones as the record
`Params`. `Params` is carried in `State` (log entry 2), so a statement about every state is a
statement about every value of the open parameters; `Params.suggested` holds the values rule R5
suggests and is used by `State.reset` only. -/

namespace Sys2Proof

/-- `SECTOR_SIZE`, fixed (R5, R42). -/
abbrev sectorSize : Nat := 256

/-- `SECTORS_PER_TRACK`, fixed (R5, R42). -/
abbrev sectorsPerTrack : Nat := 16

/-- `BYTES_PER_TRACK`, one side of one track, fixed (R5, R42). -/
abbrev bytesPerTrack : Nat := 4096

/-- `BUF_SIZE`, fixed (R5, R20). -/
abbrev bufSize : Nat := 256

/-- `CATALOG_MAX`, fixed (R5, R53). -/
abbrev catalogMax : Nat := 128

/-- The larger admitted length of an image (R49). -/
abbrev fullSize : Nat := 655360

/-- The smaller admitted length of an image (R49). -/
abbrev halfSize : Nat := 327680

/-- The open parameters of rule R5. -/
structure Params where
  /-- `MAX_TRACK`, the clamp of Step-In. -/
  maxTrack : Byte
  /-- `DELAY_RESTORE`. -/
  delayRestore : Ticks
  /-- `DELAY_SEEK_BASE`. -/
  delaySeekBase : Ticks
  /-- `DELAY_SEEK_PER_TRACK`. -/
  delaySeekPerTrack : Ticks
  /-- `DELAY_STEP`. -/
  delayStep : Ticks
  /-- `RA_SIZE_CODE`. -/
  raSizeCode : Byte
  /-- `RA_TRAIL0`. -/
  raTrail0 : Byte
  /-- `RA_TRAIL1`. -/
  raTrail1 : Byte
  /-- `CTRL_SIDE_INVERT`, 0 or 1. -/
  sideInvert : Side
  /-- `DISKINFO_TYPE_OFFSET`. -/
  diskInfoTypeOffset : Nat
  /-- `RESET_TRACK`. -/
  resetTrack : Byte
  /-- `RESET_SECTOR`. -/
  resetSector : Byte
  /-- `RESET_DATA`. -/
  resetData : Byte
  /-- `RESET_CONTROL`. -/
  resetControl : Byte
  deriving DecidableEq, Repr

/-- The constraints of rule R5 that the field types do not already carry. -/
abbrev Params.Valid (p : Params) : Prop :=
  1 ≤ p.delayRestore.toNat ∧ 1 ≤ p.delaySeekBase.toNat ∧ 1 ≤ p.delayStep.toNat ∧
  p.delaySeekBase.toNat + 255 * p.delaySeekPerTrack.toNat < 2 ^ 32 ∧
  p.diskInfoTypeOffset ≤ 233

/-- The suggested values of rule R5 (log entries 3 and 4). -/
def Params.suggested : Params where
  maxTrack := 79
  delayRestore := 21000
  delaySeekBase := 21000
  delaySeekPerTrack := 21000
  delayStep := 21000
  raSizeCode := 0x01
  raTrail0 := 0x00
  raTrail1 := 0x00
  sideInvert := 0
  diskInfoTypeOffset := 0
  resetTrack := 0x00
  resetSector := 0x00
  resetData := 0x00
  resetControl := 0x00

end Sys2Proof
end

