-- ==== Sys2Proof/Machine/Memory.lean ====
section
/-! DEFINITION. The bytes of an image's backing store as a sparse list in one canonical form. A store has
a definite byte at every offset below its length (R26, R30); the list leaves out the bytes that are
0x00, which is a way to write the store down and not a value given to an unwritten byte (log entry 7).
All access is by whole ranges: `readRange` is `MemRead` and `writeRange` is `MemWrite` (R7). -/

namespace Sys2Proof.Machine

/-- Cells in strictly rising order of address, none holding 0x00. -/
abbrev Memory := List Host.Cell

/-- What an unlisted address reads as (log entry 7). -/
def Memory.unlisted : Byte := 0x00

/-- The byte at an address. -/
def Memory.read : Memory → Nat → Byte
  | [], _ => Memory.unlisted
  | (b, v) :: rest, a => if b = a then v else Memory.read rest a

/-- The canonical form: addresses strictly rising, no entry equal to what an unlisted address reads as. -/
def Memory.wf : Memory → Bool
  | [] => true
  | [(_, v)] => v != Memory.unlisted
  | (a, v) :: (b, w) :: rest => v != Memory.unlisted && a < b && Memory.wf ((b, w) :: rest)

/-- The bytes at `off`, `off + 1`, ..., `n` of them: `MemRead` (R7). -/
def Memory.readRange (m : Memory) (off : Nat) : Nat → List Byte
  | 0 => []
  | n + 1 => m.read off :: Memory.readRange m (off + 1) n

/-- The cells that hold a list of bytes from `off` on. -/
def Memory.cellsOf (off : Nat) : List Byte → Memory
  | [] => []
  | v :: rest =>
    if v = Memory.unlisted then Memory.cellsOf (off + 1) rest
    else (off, v) :: Memory.cellsOf (off + 1) rest

/-- The cells at addresses below `off`. -/
def Memory.below (m : Memory) (off : Nat) : Memory := m.filter fun c => decide (c.1 < off)

/-- The cells at addresses `off` and above. -/
def Memory.atOrAbove (m : Memory) (off : Nat) : Memory := m.filter fun c => decide (off ≤ c.1)

/-- Replace the bytes from `off` on by the given ones: `MemWrite` (R7). -/
def Memory.writeRange (m : Memory) (off : Nat) (bytes : List Byte) : Memory :=
  m.below off ++ (Memory.cellsOf off bytes ++ m.atOrAbove (off + bytes.length))

/-- The store that holds exactly the given bytes, from offset 0 (R30). -/
def Memory.ofBytes (bytes : List Byte) : Memory := Memory.cellsOf 0 bytes

end Sys2Proof.Machine
end

