-- ==== Sys2Proof/Machine/State.lean ====
section
/-! DEFINITION. The state of the block and of what stands at its ports, as plain data. Fields that are
the spec's own come first; the last five (`params`, `reply`, `events`, `hostResult`, `inputs`) are the
model's: the machine's parameters, the outcome of the last operation, and the operations delivered
and not yet performed (log entries 1, 2 and 5). -/

namespace Sys2Proof.Machine

/-- The sequencer state (R18). `xferRead` and `xferWrite` are the source's `Transferring(Read)` and
`Transferring(Write)`. -/
inductive Seq where
  | idle
  | busy
  | xferRead
  | xferWrite
  deriving DecidableEq, Repr

/-- The direction of a transfer (R21). -/
inductive Dir where
  | read
  | write
  deriving DecidableEq, Repr

/-- A pulse on one of the two outputs (R25): `irq` "operation complete", `drqEv` "transfer ready". -/
inductive Event where
  | irq
  | drqEv
  deriving DecidableEq, Repr

/-- The error results of the image engine, E1 to E5 (R151). -/
inductive ImageError where
  | unsupportedSize
  | catalogReadFailure
  | addressOutOfRange
  | ioFault
  | readOnly
  deriving DecidableEq, Repr

/-- The two status conditions a failing command can record (R152, R153). -/
inductive Failure where
  | recordNotFound
  | writeProtect
  deriving DecidableEq, Repr

/-- The DiskInfo record (R51). -/
structure DiskInfo where
  diskTypeCode : Byte
  declaredFileCount : Byte
  freeSectors : BitVec 16
  formatId : Byte
  /-- 9 bytes, opaque. -/
  password : List Byte
  deletedFileCount : Byte
  /-- 8 bytes. -/
  label : List Byte
  deriving DecidableEq, Repr

/-- A catalog entry (R52). -/
structure CatalogEntry where
  /-- 8 bytes. -/
  name : List Byte
  extension : Byte
  startParam : BitVec 16
  lengthBytes : BitVec 16
  sectorsUsed : Byte
  startSector : Byte
  startTrack : Byte
  deriving DecidableEq, Repr

/-- An image (R26): an object outside the controller, reached through the image port only (R61). -/
structure Image where
  /-- `L`, the fixed length of the store. -/
  size : Nat
  /-- The bytes of the store. -/
  store : Memory
  tracks : Nat
  sides : Nat
  readOnly : Bool
  dirty : Bool
  /-- Cache filled at open, read by nothing (R63). -/
  diskInfo : DiskInfo
  /-- Cache filled at open, read by nothing (R63). -/
  catalog : List CatalogEntry
  deriving DecidableEq, Repr

/-- The four drive slots (R23): each empty or a reference to an image, by its index in the image table.
Two slots may hold the same reference and then share one store (R28, R183). -/
structure Slots where
  slot0 : Option Nat
  slot1 : Option Nat
  slot2 : Option Nat
  slot3 : Option Nat
  deriving DecidableEq, Repr

/-- What the host does to images beside attaching them: the image operations of rules R44 to R48.
They have no row in the opcode table (log entry 8). -/
inductive HostOp where
  /-- `open(bytes, want_read_write, write_granted)` (R48). -/
  | openImage (bytes : List Byte) (wantReadWrite : Bool) (writeGranted : Bool)
  /-- `flush(img)` (R46). -/
  | flush (m : Nat)
  /-- `close(img)` (R47). -/
  | close (m : Nat)
  /-- `read_sector(img, t, s, sec)` by another holder of the image (R44, R60). -/
  | readSector (m : Nat) (t : Nat) (s : Nat) (sec : Nat)
  /-- `write_sector(img, t, s, sec, data)` by another holder of the image (R45, R60). -/
  | writeSector (m : Nat) (t : Nat) (s : Nat) (sec : Nat) (data : Vector Byte 256)
  deriving DecidableEq, Repr

/-- What an image operation returns to the host (R150: "returned to the caller as explicit results"). -/
inductive HostResult where
  /-- An image was opened; its index in the image table. -/
  | opened (m : Nat)
  /-- Success without a value. -/
  | done
  /-- The 256 bytes of a sector. -/
  | sector (bytes : List Byte)
  | failed (e : ImageError)
  deriving DecidableEq, Repr

/-- One operation delivered to the block: a request word, or an image operation of the host. -/
inductive Input where
  | request (r : Request)
  | host (h : HostOp)
  deriving DecidableEq, Repr

/-- Why the machine stops. The block itself has no trap (R158); this stands for the one case to which the
spec says it gives no meaning. -/
inductive Fault where
  /-- Raised by Read Sector, Write Sector and the commit of a write transfer (`RDSEC`, `WRSEC`, `WR DATA` and
  the bus and stimulus forms of these) when the selected slot refers to an image that is not open: "The
  block gives no meaning to an operation on a slot whose image has been closed" (R183). SAFE: it stops where the
  spec gives no effect, and no run from a state that meets `State.Inv` reaches it (log entry 9). -/
  | closedImage (m : Nat)
  deriving DecidableEq, Repr

/-- Why an input has no meaning. -/
inductive Refusal where
  /-- Raised by `exec` for an instruction that has no meaning yet. No arm does. SAFE. -/
  | notModelled (mnemonic : String)
  /-- Raised by `step` for a 40-bit word that is not a stimulus: "a decoder refuses it" (R80). SAFE. -/
  | notAStimulus (why : Reject)
  /-- Raised by `step` for a host image operation on an image that is not open: after close "the image must
  not be used" (R47). SAFE. -/
  | imageNotOpen (m : Nat)
  /-- Raised by `step` for a host close of an image a slot still holds, "a caller error" (R47, R183; I11 of
  spec/93: refuse). SAFE. -/
  | closeAttached (m : Nat)
  deriving DecidableEq, Repr

/-- The state. -/
structure State where
  /-- `st`, the sequencer state (R18). -/
  st : Seq
  /-- `TR`, the track register (R11). -/
  tr : Byte
  /-- `SR`, the sector register, 1-based (R11, R78). -/
  sr : Byte
  /-- `DR`, the data register (R11). -/
  dr : Byte
  /-- `CR`, the control register (R12). -/
  cr : Byte
  /-- `CMDR`, the last-command register (R13). -/
  cmdr : Byte
  /-- `BUSY` (R14). -/
  busy : Bool
  /-- `DRQ` (R14). -/
  drq : Bool
  /-- `RNF` (R14). -/
  rnf : Bool
  /-- `WP` (R14). -/
  wp : Bool
  /-- `delay`, the delay counter (R19). -/
  delay : Ticks
  /-- `buf`, the staging buffer: 256 bytes (R20; the length is part of `State.Inv`). -/
  buf : List Byte
  /-- `pos` (R20). -/
  pos : BufCount
  /-- `len` (R20). -/
  len : BufCount
  /-- `LTRK` (R22). -/
  ltrk : Byte
  /-- `LSIDE` (R22). -/
  lside : Side
  /-- `LSEC` (R22). -/
  lsec : Byte
  /-- `slot[0]` to `slot[3]` (R23). -/
  slots : Slots
  /-- The images the host has opened, by index; `none` where it has closed one (R26, R28, R80). -/
  images : List (Option Image)
  /-- The open parameters (R5). No operation changes them (log entry 2). -/
  params : Params
  /-- The byte the last operation returned, if any (R7, R9). -/
  reply : Option Byte
  /-- The events the last operation emitted, in order (R9, R25). -/
  events : List Event
  /-- What the last image operation of the host returned. -/
  hostResult : Option HostResult
  /-- The operations delivered and not yet performed, in the order delivered (R9, R58). -/
  inputs : List Input
  deriving DecidableEq, Repr

/-- The block after power-on with the given parameters (R29, R171). The values of `buf`, `ltrk`, `lside`,
`lsec` and `cmdr`, which the spec leaves unspecified, are zero (log entry 3). -/
def State.powerOn (p : Params) : State where
  st := .idle
  tr := p.resetTrack
  sr := p.resetSector
  dr := p.resetData
  cr := p.resetControl
  cmdr := 0x00
  busy := false
  drq := false
  rnf := false
  wp := false
  delay := 0
  buf := zeroBuffer
  pos := 0
  len := 0
  ltrk := 0x00
  lside := 0
  lsec := 0x00
  slots := ⟨none, none, none, none⟩
  images := []
  params := p
  reply := none
  events := []
  hostResult := none
  inputs := []

/-- The machine right after reset: power-on with the suggested parameters (R5, R29, R171; log entries 3
and 4). -/
def State.reset : State := State.powerOn Params.suggested

end Sys2Proof.Machine
end

