-- ==== Sys2Proof/Machine/Operands.lean ====
section
/-! DEFINITION. Operand assembly: the values a command takes from registers at the moment of decode (R24,
R78, R79). Commands carry no immediate operand; no operand is sign-extended, scaled or shifted. -/

namespace Sys2Proof.Machine

/-- The reference a slot holds (R23). -/
def Slots.get (s : Slots) (d : Drive) : Option Nat :=
  match d.toNat with
  | 0 => s.slot0
  | 1 => s.slot1
  | 2 => s.slot2
  | _ => s.slot3

/-- Store or clear the reference of one slot (R23). -/
def Slots.set (s : Slots) (d : Drive) (v : Option Nat) : Slots :=
  match d.toNat with
  | 0 => { s with slot0 := v }
  | 1 => { s with slot1 := v }
  | 2 => { s with slot2 := v }
  | _ => { s with slot3 := v }

/-- Some slot holds image `m`. -/
def Slots.holds (s : Slots) (m : Nat) : Bool :=
  s.slot0 == some m || s.slot1 == some m || s.slot2 == some m || s.slot3 == some m

/-- `drive = CR[1:0]` (R24, R77). -/
def State.drive (s : State) : Drive := s.cr.extractLsb' 0 2

/-- `side = CR[4] xor CTRL_SIDE_INVERT` (R24, R77). -/
def State.side (s : State) : Side := s.cr.extractLsb' 4 1 ^^^ s.params.sideInvert

/-- `secidx = (SR - 1) mod 256`: the sector register made 0-based, 0 giving 255 (R78). -/
def State.secIndex (s : State) : Byte := s.sr - 1

/-- The seek distance `abs(DR - TR)` on unsigned values, 0 to 255 (R78). -/
def State.seekDistance (s : State) : Nat :=
  if s.tr.toNat ≤ s.dr.toNat then s.dr.toNat - s.tr.toNat else s.tr.toNat - s.dr.toNat

/-- The delay of a Seek, `DELAY_SEEK_BASE + d * DELAY_SEEK_PER_TRACK` (R111). It does not wrap for parameters
that meet `Params.Valid` (R5). -/
def State.seekDelay (s : State) : Ticks :=
  BitVec.ofNat 32 (s.params.delaySeekBase.toNat + s.seekDistance * s.params.delaySeekPerTrack.toNat)

/-- The six bytes of a Read Address (R79). -/
def State.addressId (s : State) : List Byte :=
  [s.tr, s.side.setWidth 8, s.sr, s.params.raSizeCode, s.params.raTrail0, s.params.raTrail1]

/-- The immediate-interrupt bit, bit 3 of a command byte (R78, R135). -/
def immediateBit (v : Byte) : Bool := v.getLsbD 3

/-- A u16 of a record, low byte first (R54). -/
def u16le (lo hi : Byte) : BitVec 16 := hi ++ lo

/-- The image at an index of the image table, if one is open there. -/
def State.imageAt (s : State) (m : Nat) : Option Image := s.images.getD m none

/-- What the selected slot holds, the source's "active drive's image". -/
inductive SlotView where
  | empty
  | image (m : Nat) (img : Image)
  /-- A reference to an image that is not open; no reachable state has one. -/
  | closed (m : Nat)
  deriving DecidableEq, Repr

/-- `slot[drive]`, with the image it refers to. -/
def State.activeSlot (s : State) : SlotView :=
  match s.slots.get s.drive with
  | none => .empty
  | some m =>
    match s.imageAt m with
    | some img => .image m img
    | none => .closed m

end Sys2Proof.Machine
end

