-- ==== Sys2Proof/Machine/Flags.lean ====
section
/-! DEFINITION. The status flags: the four stored ones, the computed and the constant ones, the status
byte, and the validity signals of the staging buffer. -/

namespace Sys2Proof.Machine

/-- `NOTREADY = (slot[drive] = none)`, computed and not stored (R16). -/
def State.notReady (s : State) : Bool := (s.slots.get s.drive).isNone

/-- `LOSTDATA`, constant 0 (R15). -/
def lostData : Bool := false

/-- `CRCERR`, constant 0 (R15). -/
def crcErr : Bool := false

/-- `STATUS()`: `NOTREADY`, `WP`, 0, `RNF`, `CRCERR`, `LOSTDATA`, `DRQ`, `BUSY` from bit 7 down (R17, R76). -/
def State.status (s : State) : Byte :=
  BitVec.ofBool s.notReady ++ BitVec.ofBool s.wp ++ 0#1 ++ BitVec.ofBool s.rnf ++
    BitVec.ofBool crcErr ++ BitVec.ofBool lostData ++ BitVec.ofBool s.drq ++ BitVec.ofBool s.busy

/-- Set the flag of a failure (R152). -/
def State.raise (s : State) (f : Failure) : State :=
  match f with
  | .recordNotFound => { s with rnf := true }
  | .writeProtect => { s with wp := true }

/-- The flag an error result of the image turns into (R102, R153). -/
def ImageError.failure : ImageError → Failure
  | .readOnly => .writeProtect
  | .addressOutOfRange => .recordNotFound
  | .ioFault => .recordNotFound
  | .unsupportedSize => .recordNotFound
  | .catalogReadFailure => .recordNotFound

/-- `buf_valid` (R21). -/
def State.bufValid (s : State) : Bool := s.st == .xferRead || s.st == .xferWrite

/-- `buf_dir`, defined during a transfer (R21). -/
def State.bufDir (s : State) : Option Dir :=
  match s.st with
  | .xferRead => some .read
  | .xferWrite => some .write
  | .idle => none
  | .busy => none

/-- `buf_remaining` (R21). -/
def State.bufRemaining (s : State) : Nat :=
  if s.bufValid then s.len.toNat - s.pos.toNat else 0

end Sys2Proof.Machine
end

