-- ==== Sys2Proof/Machine/Image.lean ====
section
/-! DEFINITION. The sector image addressing engine: the addressing function, sector read and write, flush,
and open with its geometry resolution and catalog scan (R41 to R53). -/

namespace Sys2Proof.Machine

/-- `OFFSET(img, t, s, sec)` on naturals, with no wrap (R43). -/
def sectorOffset (img : Image) (t s sec : Nat) : Nat :=
  t * img.sides * bytesPerTrack + s * bytesPerTrack + sec * sectorSize

/-- The range test of rules R44 and R45: the triple lies within the geometry. -/
def inGeometry (img : Image) (t s sec : Nat) : Bool :=
  decide (t < img.tracks) && decide (s < img.sides) && decide (sec < sectorsPerTrack)

/-- `read_sector` (R44). -/
def readSector (img : Image) (t s sec : Nat) : Except ImageError (List Byte) :=
  if inGeometry img t s sec then
    if sectorOffset img t s sec + sectorSize ≤ img.size then
      .ok (img.store.readRange (sectorOffset img t s sec) sectorSize)
    else .error .ioFault
  else .error .addressOutOfRange

/-- `write_sector` (R45); the order of the tests is the rule's. -/
def writeSector (img : Image) (t s sec : Nat) (data : List Byte) : Except ImageError Image :=
  if img.readOnly then .error .readOnly
  else if inGeometry img t s sec then
    if sectorOffset img t s sec + sectorSize ≤ img.size then
      .ok { img with store := img.store.writeRange (sectorOffset img t s sec) data, dirty := true }
    else .error .ioFault
  else .error .addressOutOfRange

/-- `flush` (R46): no byte changes; a writable image is no longer dirty. -/
def flushImage (img : Image) : Image :=
  if img.readOnly then img else { img with dirty := false }

/-- The geometry a length gives (R49); `none` is `UnsupportedSize`. -/
def geometryOfSize (n : Nat) : Option (Nat × Nat) :=
  if n = fullSize then some (80, 2) else if n = halfSize then some (80, 2) else none

/-- The geometry after the DiskInfo type code has been seen (R50). -/
def confirmGeometry (code : Byte) (guess : Nat × Nat) : Nat × Nat :=
  if code = 0x16 then (80, 2)
  else if code = 0x17 then (40, 2)
  else if code = 0x18 then (80, 1)
  else guess

/-- `n` bytes of a sector from offset `off`. -/
def field (r : List Byte) (off n : Nat) : List Byte := (r.drop off).take n

/-- The DiskInfo record at offset `b` of a sector (R51). -/
def readDiskInfo (r : List Byte) (b : Nat) : DiskInfo where
  diskTypeCode := r.getD b 0
  declaredFileCount := r.getD (b + 1) 0
  freeSectors := u16le (r.getD (b + 2) 0) (r.getD (b + 3) 0)
  formatId := r.getD (b + 4) 0
  password := field r (b + 5) 9
  deletedFileCount := r.getD (b + 14) 0
  label := field r (b + 15) 8

/-- A catalog entry from its 16 bytes (R52). -/
def readCatalogEntry (e : List Byte) : CatalogEntry where
  name := field e 0 8
  extension := e.getD 8 0
  startParam := u16le (e.getD 9 0) (e.getD 10 0)
  lengthBytes := u16le (e.getD 11 0) (e.getD 12 0)
  sectorsUsed := e.getD 13 0
  startSector := e.getD 14 0
  startTrack := e.getD 15 0

/-- "An entry is valid iff its first name byte is neither 0x00 nor 0x01" (R52). -/
def entryValid (e : List Byte) : Bool := e.getD 0 0 != 0x00 && e.getD 0 0 != 0x01

/-- The 16 entries of a catalog sector, in order (R52, R53). -/
def sectorEntries (r : List Byte) : List (List Byte) :=
  (List.range 16).map fun i => field r (16 * i) 16

/-- The scan of one sector's entries (R53): the catalog so far, and whether the whole scan stops. -/
def scanEntries (acc : List CatalogEntry) : List (List Byte) → List CatalogEntry × Bool
  | [] => (acc, false)
  | e :: rest =>
    if entryValid e then
      if acc.length + 1 = catalogMax then (acc ++ [readCatalogEntry e], true)
      else scanEntries (acc ++ [readCatalogEntry e]) rest
    else (acc, true)

/-- The scan of the listed sectors of track 0, side 0 (R53). -/
def scanSectors (img : Image) (acc : List CatalogEntry) : List Nat → List CatalogEntry
  | [] => acc
  | sec :: rest =>
    match readSector img 0 0 sec with
    | .error _ => acc
    | .ok r =>
      match scanEntries acc (sectorEntries r) with
      | (acc', true) => acc'
      | (acc', false) => scanSectors img acc' rest

/-- The catalog scan `open` performs (R53). -/
def scanCatalog (img : Image) : List CatalogEntry := scanSectors img [] (List.range 8)

/-- `open` (R48 to R53), `typeOffset` being `DISKINFO_TYPE_OFFSET`. -/
def openImage (bytes : List Byte) (wantReadWrite writeGranted : Bool) (typeOffset : Nat) :
    Except ImageError Image :=
  match geometryOfSize bytes.length with
  | none => .error .unsupportedSize
  | some guess =>
    let sized : Image :=
      { size := bytes.length, store := Memory.ofBytes bytes, tracks := guess.1, sides := guess.2,
        readOnly := !(wantReadWrite && writeGranted), dirty := false,
        diskInfo := readDiskInfo [] 0, catalog := [] }
    match readSector sized 0 0 8 with
    | .error _ => .error .catalogReadFailure
    | .ok r =>
      let geo := confirmGeometry (r.getD typeOffset 0) guess
      let confirmed : Image :=
        { sized with tracks := geo.1, sides := geo.2, diskInfo := readDiskInfo r typeOffset }
      .ok { confirmed with catalog := scanCatalog confirmed }

end Sys2Proof.Machine
end

