-- ==== Sys2Proof/Machine/Ops.lean ====
section
/-! DEFINITION. The operations the meanings share: the outputs of an operation, and the procedures
`COMPLETE()`, `COMMIT()`, `ENTER_BUSY`, `FAIL` and `OPEN_XFER` of the rules. The block has no exception
to take and none to return from (R158 to R160); `State.failWith` is what stands in that place, one
shared operation for every failing command. -/

namespace Sys2Proof.Machine

/-- The start of every operation: the pair the previous one returned is gone (R7, R25; log entry 5). -/
def State.clearOutputs (s : State) : State :=
  { s with reply := none, events := [], hostResult := none }

/-- `emit` (R7). -/
def State.emit (s : State) (e : Event) : State := { s with events := s.events ++ [e] }

/-- `return v` of a bus read (R9). -/
def State.answer (s : State) (v : Byte) : State := { s with reply := some v }

/-- Return a result to the host (R150). -/
def State.hostAnswer (s : State) (r : HostResult) : State := { s with hostResult := some r }

/-- Put an image back into the image table: every holder of it sees the change (R28). -/
def State.setImage (s : State) (m : Nat) (img : Option Image) : State :=
  { s with images := s.images.set m img }

/-- `COMPLETE()`, the common end of a command (R103). -/
def State.complete (s : State) : State :=
  { s with busy := false, drq := false, st := .idle, delay := 0 }.emit .irq

/-- The prologue of every command write (R96). -/
def State.prologue (s : State) (v : Byte) : State :=
  { s with cmdr := v, rnf := false, wp := false, drq := false }

/-- `ENTER_BUSY(d)` of the type I commands (file 41). -/
def State.enterBusy (s : State) (d : Ticks) : State :=
  { s with delay := d, busy := true, st := .busy, pos := 0, len := 0 }

/-- `FAIL(flag)` of the transfer commands (file 42, R158). -/
def State.failWith (s : State) (f : Failure) : State :=
  { s.raise f with pos := 0, len := 0 }.complete

/-- `OPEN_XFER(dir, n)` of the transfer commands (file 42). -/
def State.openXfer (s : State) (dir : Dir) (n : BufCount) : State :=
  { s with
    len := n, pos := 0, delay := 0, busy := true, drq := true,
    st := match dir with
      | .read => .xferRead
      | .write => .xferWrite }.emit .drqEv

/-- `COMMIT()` (R102): the sector goes to the image of the drive selected now, at the latched address. -/
def State.commit (s : State) : Host.Outcome State Fault Refusal :=
  match s.activeSlot with
  | .empty => .next (s.raise .recordNotFound).complete
  | .closed m => .fault (.closedImage m)
  | .image m img =>
    match writeSector img s.ltrk.toNat s.lside.toNat s.lsec.toNat s.buf with
    | .ok img' => .next (s.setImage m (some img')).complete
    | .error e => .next (s.raise e.failure).complete

/-- The byte at an offset of the store of the image at index `m`; none where no image is open or the
offset is past the store's end. -/
def State.storeByte (s : State) (m a : Nat) : Option Byte :=
  match s.imageAt m with
  | none => none
  | some img => if a < img.size then some (img.store.read a) else none

end Sys2Proof.Machine
end

