-- ==== Sys2Proof/Machine/Transfer.lean ====
section
/-! DEFINITION. The type II and type III commands: Read Sector, Write Sector, Read Address (R120 to R123). A
body starts after the prologue of rule R96. -/

namespace Sys2Proof.Machine

/-- R120. -/
def State.rdSecBody (s : State) : Host.Outcome State Fault Refusal :=
  match s.activeSlot with
  | .empty => .next (s.failWith .recordNotFound)
  | .closed m => .fault (.closedImage m)
  | .image _ img =>
    match readSector img s.tr.toNat s.side.toNat s.secIndex.toNat with
    | .error _ => .next (s.failWith .recordNotFound)
    | .ok r => .next ({ s with buf := r }.openXfer .read 256)

/-- R121: no image first, then read-only; the address is not tested here. -/
def State.wrSecBody (s : State) : Host.Outcome State Fault Refusal :=
  match s.activeSlot with
  | .empty => .next (s.failWith .recordNotFound)
  | .closed m => .fault (.closedImage m)
  | .image _ img =>
    if img.readOnly then .next (s.failWith .writeProtect)
    else
      .next ({ s with
        buf := zeroBuffer,
        ltrk := s.tr, lside := s.side, lsec := s.secIndex }.openXfer .write 256)

/-- R122: the identifier goes to `buf[0..5]`, the rest of the buffer keeps its content. -/
def State.rdAddrBody (s : State) : State :=
  { s with buf := s.addressId ++ s.buf.drop 6 }.openXfer .read 6

/-- `RDSEC` (R96, R120). -/
def execRdSec (x : BitVec 5) (s : State) : Host.Outcome State Fault Refusal :=
  (s.clearOutputs.prologue (0b100#3 ++ x)).rdSecBody

/-- `WRSEC` (R96, R121). -/
def execWrSec (x : BitVec 5) (s : State) : Host.Outcome State Fault Refusal :=
  (s.clearOutputs.prologue (0b101#3 ++ x)).wrSecBody

/-- `RDADDR` (R96, R122). -/
def execRdAddr (x : BitVec 4) (s : State) : Host.Outcome State Fault Refusal :=
  .next (s.clearOutputs.prologue (0xC#4 ++ x)).rdAddrBody

end Sys2Proof.Machine
end

