-- ==== Sys2Proof/Machine/Type1.lean ====
section
/-! DEFINITION. The type I commands: Restore, Seek, Step, Step-In, Step-Out (R110 to R115). A body starts
after the prologue of rule R96; a meaning is the command written on its own. -/

namespace Sys2Proof.Machine

/-- R110. -/
def State.restoreBody (s : State) : State :=
  { s with tr := 0 }.enterBusy s.params.delayRestore

/-- R111: the distance is taken from the old `TR`. -/
def State.seekBody (s : State) : State :=
  { s with tr := s.dr }.enterBusy s.seekDelay

/-- R112. -/
def State.stepBody (s : State) : State := s.enterBusy s.params.delayStep

/-- R113. -/
def State.stepInBody (s : State) : State :=
  { s with tr := if s.tr.toNat < s.params.maxTrack.toNat then s.tr + 1 else s.tr }.enterBusy
    s.params.delayStep

/-- R114. -/
def State.stepOutBody (s : State) : State :=
  { s with tr := if 0 < s.tr.toNat then s.tr - 1 else s.tr }.enterBusy s.params.delayStep

/-- `RESTORE` (R96, R110). -/
def execRestore (x : BitVec 4) (s : State) : Host.Outcome State Fault Refusal :=
  .next (s.clearOutputs.prologue (0x0#4 ++ x)).restoreBody

/-- `SEEK` (R96, R111). -/
def execSeek (x : BitVec 4) (s : State) : Host.Outcome State Fault Refusal :=
  .next (s.clearOutputs.prologue (0x1#4 ++ x)).seekBody

/-- `STEP` (R96, R112). -/
def execStep (x : BitVec 5) (s : State) : Host.Outcome State Fault Refusal :=
  .next (s.clearOutputs.prologue (0b001#3 ++ x)).stepBody

/-- `STEPIN` (R96, R113). -/
def execStepIn (x : BitVec 5) (s : State) : Host.Outcome State Fault Refusal :=
  .next (s.clearOutputs.prologue (0b010#3 ++ x)).stepInBody

/-- `STEPOUT` (R96, R114). -/
def execStepOut (x : BitVec 5) (s : State) : Host.Outcome State Fault Refusal :=
  .next (s.clearOutputs.prologue (0b011#3 ++ x)).stepOutBody

end Sys2Proof.Machine
end

