-- ==== Sys2Proof/Machine/Type4.lean ====
section
/-! DEFINITION. The type IV command Force Interrupt and the other command patterns (R135, R136). A body starts
after the prologue of rule R96. -/

namespace Sys2Proof.Machine

/-- The way to `Idle` that Force Interrupt and the other patterns share: no `COMPLETE()`, so no event of its
own (R103, R135, R136). -/
def State.abort (s : State) : State :=
  { s with busy := false, delay := 0, st := .idle, pos := 0, len := 0 }

/-- R135: `IRQ` exactly when the immediate bit is set. -/
def State.forceIntBody (s : State) (immediate : Bool) : State :=
  if immediate then s.abort.emit .irq else s.abort

/-- R136: a silent abort. -/
def State.otherBody (s : State) : State := s.abort

/-- `FORCEINT` (R96, R135). -/
def execForceInt (i : Bool) (x : BitVec 3) (s : State) : Host.Outcome State Fault Refusal :=
  .next ((s.clearOutputs.prologue (0xD#4 ++ (BitVec.ofBool i ++ x))).forceIntBody i)

/-- `OTHER` (R96, R136). -/
def execOther (x : BitVec 5) (s : State) : Host.Outcome State Fault Refusal :=
  .next (s.clearOutputs.prologue (0b111#3 ++ x)).otherBody

end Sys2Proof.Machine
end

