-- ==== Sys2Proof/Machine/Bus.lean ====
section
/-! DEFINITION. The register bus: reads and writes of the five registers and of the unmapped selects (R90 to
R101), and the stimulus words that carry them (R80). -/

namespace Sys2Proof.Machine

/-- R90. -/
def State.readStatus (s : State) : State := s.answer s.status

/-- R91. -/
def State.readTrack (s : State) : State := s.answer s.tr

/-- R92. -/
def State.readSectorReg (s : State) : State := s.answer s.sr

/-- The byte a read transfer delivers next, `buf[pos]`. `pos < len <= 256` in every `XferRead` that a run
reaches (R27), so it exists there (log entry 11). -/
def State.nextByte (s : State) : Byte := s.buf.getD s.pos.toNat 0x00

/-- Deliver one byte of a read transfer: `DR` takes it and `pos` moves (R93). -/
def State.deliverByte (s : State) : State := { s with dr := s.nextByte, pos := s.pos + 1 }

/-- R93. -/
def State.readData (s : State) : State :=
  match s.st with
  | .xferRead =>
    (if s.deliverByte.pos = s.deliverByte.len then s.deliverByte.complete else s.deliverByte).answer
      s.nextByte
  | _ => s.answer s.dr

/-- R94. -/
def State.readControl (s : State) : State := s.answer s.cr

/-- R95. -/
def State.readUnmapped (s : State) : State := s.answer 0xFF

/-- R96: the prologue, then the rule of the byte's class. -/
def State.writeCommand (s : State) (v : Byte) : Host.Outcome State Fault Refusal :=
  let s := s.prologue v
  match commandClass v with
  | .restore => .next s.restoreBody
  | .seek => .next s.seekBody
  | .step => .next s.stepBody
  | .stepIn => .next s.stepInBody
  | .stepOut => .next s.stepOutBody
  | .rdSec => s.rdSecBody
  | .wrSec => s.wrSecBody
  | .rdAddr => .next s.rdAddrBody
  | .forceInt => .next (s.forceIntBody (immediateBit v))
  | .other => .next s.otherBody

/-- R97. -/
def State.writeTrack (s : State) (v : Byte) : State := { s with tr := v }

/-- R98. -/
def State.writeSectorReg (s : State) (v : Byte) : State := { s with sr := v }

/-- Collect one byte of a write transfer: `DR` and `buf[pos]` take it and `pos` moves (R99). -/
def State.collectByte (s : State) (v : Byte) : State :=
  { s with dr := v, buf := s.buf.set s.pos.toNat v, pos := s.pos + 1 }

/-- R99. -/
def State.writeData (s : State) (v : Byte) : Host.Outcome State Fault Refusal :=
  match s.st with
  | .xferWrite =>
    if (s.collectByte v).pos = (s.collectByte v).len then (s.collectByte v).commit
    else .next (s.collectByte v)
  | _ => .next { s with dr := v }

/-- R100. -/
def State.writeControl (s : State) (v : Byte) : State := { s with cr := v }

/-- R101: the byte is dropped. -/
def State.writeUnmapped (s : State) (_v : Byte) : State := s

/-- A bus read by register select (R71). -/
def State.busRead (s : State) (r : Select) : State :=
  match r.toNat with
  | 0 => s.readStatus
  | 1 => s.readTrack
  | 2 => s.readSectorReg
  | 3 => s.readData
  | 4 => s.readControl
  | _ => s.readUnmapped

/-- A bus write by register select (R71). -/
def State.busWrite (s : State) (r : Select) (v : Byte) : Host.Outcome State Fault Refusal :=
  match r.toNat with
  | 0 => s.writeCommand v
  | 1 => .next (s.writeTrack v)
  | 2 => .next (s.writeSectorReg v)
  | 3 => s.writeData v
  | 4 => .next (s.writeControl v)
  | _ => .next (s.writeUnmapped v)

/-- `RD STATUS` (R90). The data field of a read request is ignored (R70). -/
def execRdStatus (_d : Byte) (s : State) : Host.Outcome State Fault Refusal :=
  .next s.clearOutputs.readStatus

/-- `RD TRACK` (R91). -/
def execRdTrack (_d : Byte) (s : State) : Host.Outcome State Fault Refusal :=
  .next s.clearOutputs.readTrack

/-- `RD SECTOR` (R92). -/
def execRdSector (_d : Byte) (s : State) : Host.Outcome State Fault Refusal :=
  .next s.clearOutputs.readSectorReg

/-- `RD DATA` (R93). -/
def execRdData (_d : Byte) (s : State) : Host.Outcome State Fault Refusal :=
  .next s.clearOutputs.readData

/-- `RD CONTROL` (R94). -/
def execRdControl (_d : Byte) (s : State) : Host.Outcome State Fault Refusal :=
  .next s.clearOutputs.readControl

/-- `RD` of select 5 (R95). -/
def execRdUnmapped5 (_d : Byte) (s : State) : Host.Outcome State Fault Refusal :=
  .next s.clearOutputs.readUnmapped

/-- `RD` of select 6 (R95). -/
def execRdUnmapped6 (_d : Byte) (s : State) : Host.Outcome State Fault Refusal :=
  .next s.clearOutputs.readUnmapped

/-- `RD` of select 7 (R95). -/
def execRdUnmapped7 (_d : Byte) (s : State) : Host.Outcome State Fault Refusal :=
  .next s.clearOutputs.readUnmapped

/-- `WR CMD` (R96). -/
def execWrCmd (v : Byte) (s : State) : Host.Outcome State Fault Refusal :=
  s.clearOutputs.writeCommand v

/-- `WR TRACK` (R97). -/
def execWrTrack (v : Byte) (s : State) : Host.Outcome State Fault Refusal :=
  .next (s.clearOutputs.writeTrack v)

/-- `WR SECTOR` (R98). -/
def execWrSector (v : Byte) (s : State) : Host.Outcome State Fault Refusal :=
  .next (s.clearOutputs.writeSectorReg v)

/-- `WR DATA` (R99). -/
def execWrData (v : Byte) (s : State) : Host.Outcome State Fault Refusal :=
  s.clearOutputs.writeData v

/-- `WR CONTROL` (R100). -/
def execWrControl (v : Byte) (s : State) : Host.Outcome State Fault Refusal :=
  .next (s.clearOutputs.writeControl v)

/-- `WR` to select 5 (R101). -/
def execWrUnmapped5 (v : Byte) (s : State) : Host.Outcome State Fault Refusal :=
  .next (s.clearOutputs.writeUnmapped v)

/-- `WR` to select 6 (R101). -/
def execWrUnmapped6 (v : Byte) (s : State) : Host.Outcome State Fault Refusal :=
  .next (s.clearOutputs.writeUnmapped v)

/-- `WR` to select 7 (R101). -/
def execWrUnmapped7 (v : Byte) (s : State) : Host.Outcome State Fault Refusal :=
  .next (s.clearOutputs.writeUnmapped v)

/-- Stimulus `RD r` (R80). -/
def execStimRd (r : Select) (s : State) : Host.Outcome State Fault Refusal :=
  .next (s.clearOutputs.busRead r)

/-- Stimulus `WR r, v` (R80). -/
def execStimWr (r : Select) (v : Byte) (s : State) : Host.Outcome State Fault Refusal :=
  s.clearOutputs.busWrite r v

end Sys2Proof.Machine
end

