-- ==== Sys2Proof/Machine/HostPort.lean ====
section
/-! DEFINITION. The time base and the host port: `TICK`, `ATTACH`, `DETACH` (R140 to R142), `RESET` (R170), and
the image operations the host performs on its image table (R44 to R48, log entry 8). -/

namespace Sys2Proof.Machine

/-- R140: saturating subtraction, then the expiry test. -/
def State.tickBody (s : State) (n : Ticks) : State :=
  let counted := { s with delay := BitVec.ofNat 32 (s.delay.toNat - n.toNat) }
  if counted.st = .busy ∧ counted.delay = 0 then counted.complete else counted

/-- R141: store the reference. An index that names no open image gives no image to store, and the slot is
left empty (log entry 10). -/
def State.attachBody (s : State) (d : Drive) (m : Nat) : State :=
  { s with slots := s.slots.set d (if (s.imageAt m).isSome then some m else none) }

/-- R142. -/
def State.detachBody (s : State) (d : Drive) : State := { s with slots := s.slots.set d none }

/-- R170: the slots, the buffer, the latch and `CMDR` keep their values. -/
def State.resetBody (s : State) : State :=
  { s with
    st := .idle, busy := false, drq := false, rnf := false, wp := false, delay := 0, pos := 0, len := 0,
    tr := s.params.resetTrack, sr := s.params.resetSector, dr := s.params.resetData,
    cr := s.params.resetControl }

/-- `TICK` (R140). -/
def execTick (n : Ticks) (s : State) : Host.Outcome State Fault Refusal :=
  .next (s.clearOutputs.tickBody n)

/-- `ATTACH` (R141). -/
def execAttach (d : Drive) (m : BitVec 32) (s : State) : Host.Outcome State Fault Refusal :=
  .next (s.clearOutputs.attachBody d m.toNat)

/-- `DETACH` (R142). -/
def execDetach (d : Drive) (s : State) : Host.Outcome State Fault Refusal :=
  .next (s.clearOutputs.detachBody d)

/-- `RESET` (R170). -/
def execReset (s : State) : Host.Outcome State Fault Refusal := .next s.clearOutputs.resetBody

/-- `open` by the host (R48): on success the new image takes the next free index of the table; on an
error no image exists and the error goes to the host. -/
def State.hostOpen (s : State) (bytes : List Byte) (wantReadWrite writeGranted : Bool) : State :=
  match openImage bytes wantReadWrite writeGranted s.params.diskInfoTypeOffset with
  | .ok img =>
    { s with images := s.images ++ [some img] }.hostAnswer (.opened s.images.length)
  | .error e => s.hostAnswer (.failed e)

/-- `flush` by the host (R46). -/
def State.hostFlush (s : State) (m : Nat) : Host.Outcome State Fault Refusal :=
  match s.imageAt m with
  | none => .refused (.imageNotOpen m)
  | some img => .next ((s.setImage m (some (flushImage img))).hostAnswer .done)

/-- `close` by the host (R47): flush, then the image is gone. The flushed bytes go to the host's backing
store, outside this model. -/
def State.hostClose (s : State) (m : Nat) : Host.Outcome State Fault Refusal :=
  match s.imageAt m with
  | none => .refused (.imageNotOpen m)
  | some _ =>
    if s.slots.holds m then .refused (.closeAttached m)
    else .next ((s.setImage m none).hostAnswer .done)

/-- `read_sector` by another holder of the image (R44). -/
def State.hostReadSector (s : State) (m t sd sec : Nat) : Host.Outcome State Fault Refusal :=
  match s.imageAt m with
  | none => .refused (.imageNotOpen m)
  | some img =>
    match readSector img t sd sec with
    | .ok r => .next (s.hostAnswer (.sector r))
    | .error e => .next (s.hostAnswer (.failed e))

/-- `write_sector` by another holder of the image (R45). -/
def State.hostWriteSector (s : State) (m t sd sec : Nat) (data : List Byte) :
    Host.Outcome State Fault Refusal :=
  match s.imageAt m with
  | none => .refused (.imageNotOpen m)
  | some img =>
    match writeSector img t sd sec data with
    | .ok img' => .next ((s.setImage m (some img')).hostAnswer .done)
    | .error e => .next (s.hostAnswer (.failed e))

/-- An image operation of the host. -/
def execHost (h : HostOp) (s : State) : Host.Outcome State Fault Refusal :=
  match h with
  | .openImage bytes want granted => .next (s.clearOutputs.hostOpen bytes want granted)
  | .flush m => s.clearOutputs.hostFlush m
  | .close m => s.clearOutputs.hostClose m
  | .readSector m t sd sec => s.clearOutputs.hostReadSector m t sd sec
  | .writeSector m t sd sec data => s.clearOutputs.hostWriteSector m t sd sec data.toList

end Sys2Proof.Machine
end

