-- ==== Sys2Proof/Machine/Dispatch.lean ====
section
/-! DEFINITION. The dispatch: one arm per constructor of `Instr`, each one call of that instruction's meaning. -/

namespace Sys2Proof.Machine

def exec (i : Instr) (s : State) : Host.Outcome State Fault Refusal :=
  match i with
  -- command bytes
  | .restore x => Sys2Proof.Machine.execRestore x s
  | .seek x => Sys2Proof.Machine.execSeek x s
  | .step x => Sys2Proof.Machine.execStep x s
  | .stepIn x => Sys2Proof.Machine.execStepIn x s
  | .stepOut x => Sys2Proof.Machine.execStepOut x s
  | .rdSec x => Sys2Proof.Machine.execRdSec x s
  | .wrSec x => Sys2Proof.Machine.execWrSec x s
  | .rdAddr x => Sys2Proof.Machine.execRdAddr x s
  | .forceInt i3 x => Sys2Proof.Machine.execForceInt i3 x s
  | .other x => Sys2Proof.Machine.execOther x s
  -- bus transactions
  | .rdStatus d => Sys2Proof.Machine.execRdStatus d s
  | .rdTrack d => Sys2Proof.Machine.execRdTrack d s
  | .rdSector d => Sys2Proof.Machine.execRdSector d s
  | .rdData d => Sys2Proof.Machine.execRdData d s
  | .rdControl d => Sys2Proof.Machine.execRdControl d s
  | .rdUnmapped5 d => Sys2Proof.Machine.execRdUnmapped5 d s
  | .rdUnmapped6 d => Sys2Proof.Machine.execRdUnmapped6 d s
  | .rdUnmapped7 d => Sys2Proof.Machine.execRdUnmapped7 d s
  | .wrCmd v => Sys2Proof.Machine.execWrCmd v s
  | .wrTrack v => Sys2Proof.Machine.execWrTrack v s
  | .wrSector v => Sys2Proof.Machine.execWrSector v s
  | .wrData v => Sys2Proof.Machine.execWrData v s
  | .wrControl v => Sys2Proof.Machine.execWrControl v s
  | .wrUnmapped5 v => Sys2Proof.Machine.execWrUnmapped5 v s
  | .wrUnmapped6 v => Sys2Proof.Machine.execWrUnmapped6 v s
  | .wrUnmapped7 v => Sys2Proof.Machine.execWrUnmapped7 v s
  -- stimulus words
  | .stimRd r => Sys2Proof.Machine.execStimRd r s
  | .stimWr r v => Sys2Proof.Machine.execStimWr r v s
  | .tick n => Sys2Proof.Machine.execTick n s
  | .attach d m => Sys2Proof.Machine.execAttach d m s
  | .detach d => Sys2Proof.Machine.execDetach d s
  | .reset => Sys2Proof.Machine.execReset s

end Sys2Proof.Machine
end

