-- ==== Sys2Proof/Machine/Fetch.lean ====
section
/-! DEFINITION. How the step comes by its next operation. The block fetches no instructions (R18): operations
are delivered to its ports one at a time (R9), and `inputs` holds those delivered and not yet performed. -/

namespace Sys2Proof.Machine

/-- The state with the first delivered input taken. -/
def State.withInputs (s : State) (rest : List Input) : State := { s with inputs := rest }

/-- Deliver a request so that it is the next one performed. -/
def State.deliver (s : State) (r : Request) : State := { s with inputs := .request r :: s.inputs }

/-- With nothing delivered the block waits and nothing changes (R10, R171); the pair the last operation
returned is gone. -/
def State.waiting (s : State) : State := s.clearOutputs

end Sys2Proof.Machine
end

