-- ==== Sys2Proof/Machine/Step.lean ====
section
/-! DEFINITION. The step: take the next delivered input, decode it, perform it to its end (R9, R10, R58). -/

namespace Sys2Proof.Machine

/-- One step. A delivered word that is no stimulus is refused (R80). -/
def step (s : State) : Host.Outcome State Fault Refusal :=
  match s.inputs with
  | [] => .next s.waiting
  | .host h :: rest => execHost h (s.withInputs rest)
  | .request r :: rest =>
    match decode r with
    | .ok i => exec i (s.withInputs rest)
    | .error why => .refused (.notAStimulus why)

/-- The state in which the next step performs the request of an opcode-table word (log entry 1); the state
itself where the word has more bits than its format. -/
def State.withFetchWord (s : State) (nbits w : Nat) : State :=
  match requestOf nbits w with
  | none => s
  | some r => s.deliver r

end Sys2Proof.Machine
end

