-- ==== Sys2Proof/Machine/Assembler.lean ====
section
/-! DEFINITION. The assembler of rules R81 and R82: reading the text of a line, expanding a line into
operations, and delivering a program. Text is a list of characters; numbers are decimal or, after
`0x`, hexadecimal; the names an `ATTACH` line may use come from the caller's image table. -/

namespace Sys2Proof.Machine

/-- The select a register name stands for (R71). -/
def asmSelect : AsmReg → Select
  | .status => 0
  | .command => 0
  | .track => 1
  | .sector => 2
  | .data => 3
  | .control => 4
  | .number n => BitVec.ofNat 3 n

/-- The lowest nibble value of a class's row in rule R73. -/
def lowestNibble : CommandClass → BitVec 4
  | .restore => 0x0
  | .seek => 0x1
  | .step => 0x2
  | .stepIn => 0x4
  | .stepOut => 0x6
  | .rdSec => 0x8
  | .wrSec => 0xA
  | .rdAddr => 0xC
  | .forceInt => 0xD
  | .other => 0xE

/-- The byte of `CMD <mnemonic>, <flags>` (R81). -/
def asmCommandByte (c : CommandClass) (flags : Nat) : Byte := lowestNibble c ++ BitVec.ofNat 4 flags

/-- The control byte of `SELECT d, s` (R82). -/
def asmControlByte (p : Params) (d s : Nat) : Byte :=
  0#3 ++ (BitVec.ofNat 1 s ^^^ p.sideInvert) ++ 0#2 ++ BitVec.ofNat 2 d

/-- The operations of a well-formed line (R81, R82). -/
def expandLine (p : Params) : AsmLine → List Instr
  | .rd r => [.stimRd (asmSelect r)]
  | .wr r v => [.stimWr (asmSelect r) (BitVec.ofNat 8 v)]
  | .tick n => [.tick (BitVec.ofNat 32 n)]
  | .attach d m => [.attach (BitVec.ofNat 2 d) (BitVec.ofNat 32 m)]
  | .detach d => [.detach (BitVec.ofNat 2 d)]
  | .reset => [.reset]
  | .cmd c flags => [.stimWr 0 (asmCommandByte c flags)]
  | .seekTo t => [.stimWr 3 (BitVec.ofNat 8 t), .stimWr 0 (asmCommandByte .seek 0)]
  | .select d s => [.stimWr 4 (asmControlByte p d s)]
  | .setAddr t n => [.stimWr 1 (BitVec.ofNat 8 t), .stimWr 2 (BitVec.ofNat 8 n)]
  | .readN k => List.replicate k (.stimRd 3)
  | .writeN k b => List.replicate k (.stimWr 3 (BitVec.ofNat 8 b))
  | .wait => [.tick 0xFFFFFFFF]

/-- A word of a line, if there is one. -/
def asmWord (cur : List Char) : List (List Char) := if cur = [] then [] else [cur]

/-- The words of a line, a comma being a word of its own; `;` starts a comment (R81). -/
def asmTokens (cur : List Char) : List Char → List (List Char)
  | [] => asmWord cur
  | c :: rest =>
    if c = ';' then asmWord cur
    else if c = ' ' ∨ c = '\t' ∨ c = '\r' then asmWord cur ++ asmTokens [] rest
    else if c = ',' then asmWord cur ++ ([','] :: asmTokens [] rest)
    else asmTokens (cur ++ [c]) rest

/-- The value of a digit in a base up to 16. -/
def asmDigit (base : Nat) (c : Char) : Option Nat :=
  let v :=
    if '0'.toNat ≤ c.toNat ∧ c.toNat ≤ '9'.toNat then c.toNat - '0'.toNat
    else if 'a'.toNat ≤ c.toNat ∧ c.toNat ≤ 'f'.toNat then c.toNat - 'a'.toNat + 10
    else if 'A'.toNat ≤ c.toNat ∧ c.toNat ≤ 'F'.toNat then c.toNat - 'A'.toNat + 10
    else 16
  if v < base then some v else none

/-- The value of a word of digits. -/
def asmDigits (base : Nat) (acc : Nat) : List Char → Option Nat
  | [] => some acc
  | c :: rest =>
    match asmDigit base c with
    | none => none
    | some v => asmDigits base (acc * base + v) rest

/-- A number: decimal, or hexadecimal after `0x`. -/
def asmNumber : List Char → Option Nat
  | [] => none
  | ['0', 'x'] => none
  | '0' :: 'x' :: ds => asmDigits 16 0 ds
  | ds => asmDigits 10 0 ds

/-- A register of a `RD` or `WR` line (R81). -/
def asmReg (w : List Char) : Option AsmReg :=
  if w = "STATUS".toList then some .status
  else if w = "CMD".toList ∨ w = "COMMAND".toList then some .command
  else if w = "TRACK".toList then some .track
  else if w = "SECTOR".toList then some .sector
  else if w = "DATA".toList then some .data
  else if w = "CONTROL".toList then some .control
  else (asmNumber w).map .number

/-- A command mnemonic of rule R73. -/
def asmMnemonic (w : List Char) : Option CommandClass :=
  if w = "RESTORE".toList then some .restore
  else if w = "SEEK".toList then some .seek
  else if w = "STEP".toList then some .step
  else if w = "STEPIN".toList then some .stepIn
  else if w = "STEPOUT".toList then some .stepOut
  else if w = "RDSEC".toList then some .rdSec
  else if w = "WRSEC".toList then some .wrSec
  else if w = "RDADDR".toList then some .rdAddr
  else if w = "FORCEINT".toList then some .forceInt
  else if w = "OTHER".toList then some .other
  else none

/-- An image name, looked up in the caller's table. -/
def asmImage (names : List (List Char × Nat)) (w : List Char) : Option Nat :=
  match names with
  | [] => none
  | (n, m) :: rest => if n = w then some m else asmImage rest w

/-- A line without operands. -/
def asmLine0 (op : List Char) : Option AsmLine :=
  if op = "RESET".toList then some .reset
  else if op = "WAIT".toList then some .wait
  else none

/-- A line with one operand. -/
def asmLine1 (op a : List Char) : Option AsmLine :=
  if op = "RD".toList then (asmReg a).map .rd
  else if op = "TICK".toList then (asmNumber a).map .tick
  else if op = "DETACH".toList then (asmNumber a).map .detach
  else if op = "CMD".toList then (asmMnemonic a).map (.cmd · 0)
  else if op = "SEEKTO".toList then (asmNumber a).map .seekTo
  else if op = "READN".toList then (asmNumber a).map .readN
  else none

/-- Two numbers for a two-operand line. -/
def asmPair (f : Nat → Nat → AsmLine) (a b : List Char) : Option AsmLine :=
  match asmNumber a, asmNumber b with
  | some x, some y => some (f x y)
  | _, _ => none

/-- A line with two operands. -/
def asmLine2 (names : List (List Char × Nat)) (op a b : List Char) : Option AsmLine :=
  if op = "WR".toList then
    match asmReg a, asmNumber b with
    | some r, some v => some (.wr r v)
    | _, _ => none
  else if op = "ATTACH".toList then
    match asmNumber a, asmImage names b with
    | some d, some m => some (.attach d m)
    | _, _ => none
  else if op = "CMD".toList then
    match asmMnemonic a, asmNumber b with
    | some c, some f => some (.cmd c f)
    | _, _ => none
  else if op = "SELECT".toList then asmPair .select a b
  else if op = "SETADDR".toList then asmPair .setAddr a b
  else if op = "WRITEN".toList then asmPair .writeN a b
  else none

/-- Keep a line that is well formed. -/
def asmChecked (l : Option AsmLine) : Option (List AsmLine) :=
  match l with
  | none => none
  | some l => if l.wellFormed then some [l] else none

/-- The line a text line holds: none at all for a blank or comment line, one well-formed line, or no
reading (`none`). -/
def parseLine (names : List (List Char × Nat)) (text : List Char) : Option (List AsmLine) :=
  match asmTokens [] text with
  | [] => some []
  | [op] => asmChecked (asmLine0 op)
  | [op, a] => asmChecked (asmLine1 op a)
  | [op, a, [','], b] => asmChecked (asmLine2 names op a b)
  | _ => none

/-- The operations of the lines of a program; no reading if some line has none (R81, R82). -/
def assemble (p : Params) (names : List (List Char × Nat)) : List (List Char) → Option (List Instr)
  | [] => some []
  | l :: rest =>
    match parseLine names l, assemble p names rest with
    | some lines, some is => some (lines.flatMap (expandLine p) ++ is)
    | _, _ => none

/-- Deliver a program's operations after those already delivered (R9). -/
def State.deliverAll (s : State) (is : List Instr) : State :=
  { s with inputs := s.inputs ++ is.map fun i => .request (encode i) }

end Sys2Proof.Machine
end

