-- ==== Sys2Proof/Safety.lean ====
section
/-! DEFINITION. What a safe run of the block keeps true, in the terms the statements use. -/

namespace Sys2Proof.Machine

/-- The geometries an image can have (R26). -/
abbrev Image.GeometryReachable (img : Image) : Prop :=
  (img.tracks = 80 ∧ img.sides = 2) ∨ (img.tracks = 40 ∧ img.sides = 2) ∨
    (img.tracks = 80 ∧ img.sides = 1)

/-- The lengths an image can have (R49). -/
abbrev Image.SizeReachable (img : Image) : Prop := img.size = fullSize ∨ img.size = halfSize

/-- Every listed byte of the store lies below its length (R26). -/
def Memory.within (m : Memory) (n : Nat) : Bool := m.all fun c => decide (c.1 < n)

/-- An image as `open` leaves it and as every later operation keeps it (R26, R30). -/
abbrev Image.Sound (img : Image) : Prop :=
  img.GeometryReachable ∧ img.SizeReachable ∧ img.store.wf = true ∧
    img.store.within img.size = true ∧ img.catalog.length ≤ catalogMax

/-- The five parts (a) to (e) of rule R27, with the values rule R20 gives `len`, the length of the buffer, and
the remark of rule R76 that `RNF` and `WP` are never both set. -/
abbrev State.SequencerSound (s : State) : Prop :=
  (s.st = .idle → s.busy = false ∧ s.drq = false ∧ s.delay = 0) ∧
  (s.st = .busy → s.busy = true ∧ s.drq = false ∧ 1 ≤ s.delay.toNat) ∧
  ((s.st = .xferRead ∨ s.st = .xferWrite) →
    s.busy = true ∧ s.drq = true ∧ s.delay = 0 ∧ (s.len = 6 ∨ s.len = 256) ∧
      s.pos.toNat < s.len.toNat) ∧
  (s.st = .xferWrite → s.len = 256) ∧
  s.pos.toNat ≤ s.len.toNat ∧
  ((s.rnf = true ∨ s.wp = true) → s.st = .idle) ∧
  (s.len = 0 ∨ s.len = 6 ∨ s.len = 256) ∧
  s.buf.length = bufSize ∧
  ¬(s.rnf = true ∧ s.wp = true)

/-- Every reference in a slot is to an image that is open (R183: "a model has no such state"). -/
abbrev State.SlotsLive (s : State) : Prop :=
  ∀ d : Drive, ∀ m : Nat, s.slots.get d = some m → (s.imageAt m).isSome = true

/-- Every open image is sound. -/
abbrev State.ImagesSound (s : State) : Prop :=
  ∀ m : Nat, ∀ img : Image, s.imageAt m = some img → img.Sound

/-- The invariant of the machine: every state that a run reaches meets it, and every step keeps it. -/
structure State.Inv (s : State) : Prop where
  params : s.params.Valid
  sequencer : s.SequencerSound
  slots : s.SlotsLive
  images : s.ImagesSound

/-- The operations of a program performed one after the other, each on what the one before left; the
reply and the events of each are kept in order. `none` where one of them stops. -/
def State.perform (s : State) : List Instr → Option (State × List (Option Byte × List Event))
  | [] => some (s, [])
  | i :: rest =>
    match exec i s with
    | .next t =>
      match t.perform rest with
      | some (u, out) => some (u, (t.reply, t.events) :: out)
      | none => none
    | .fault _ => none
    | .refused _ => none

/-- How many `IRQ` pulses a record of outputs holds. -/
def irqCount (out : List (Option Byte × List Event)) : Nat := (out.map fun o => o.2.count .irq).sum

/-- How many `DRQ_EV` pulses a record of outputs holds. -/
def drqCount (out : List (Option Byte × List Event)) : Nat := (out.map fun o => o.2.count .drqEv).sum

/-- The command byte an operation writes to `COMMAND`, if it writes one: a command byte on its own, `WR
CMD`, or the stimulus `WR` of select 0 (R72, R96). -/
def commandByteOf (i : Instr) : Option Byte :=
  match encode i with
  | .command v => some v
  | .bus w => if w.extractLsb' 8 4 = 0x8 then some (w.extractLsb' 0 8) else none
  | .stimulus w => if w.extractLsb' 32 8 = 0x10 then some (w.extractLsb' 0 8) else none

/-- The byte an operation writes to `DATA`, if it writes one (R71, R99). -/
def dataByteOf (i : Instr) : Option Byte :=
  match encode i with
  | .command _ => none
  | .bus w => if w.extractLsb' 8 4 = 0xB then some (w.extractLsb' 0 8) else none
  | .stimulus w => if w.extractLsb' 32 8 = 0x13 then some (w.extractLsb' 0 8) else none

/-- The operation reads `DATA` (R71, R93). -/
def readsData (i : Instr) : Prop := (∃ d, i = .rdData d) ∨ i = .stimRd 3

/-- A type I command (R8, R115). -/
def isTypeOne (c : CommandClass) : Bool :=
  c == .restore || c == .seek || c == .step || c == .stepIn || c == .stepOut

/-- A Read Sector decoded now finds its sector: "image present and read succeeds" (R166). -/
def State.readSucceeds (s : State) : Prop :=
  ∃ m img r, s.activeSlot = .image m img ∧
    readSector img s.tr.toNat s.side.toNat s.secIndex.toNat = .ok r

/-- A Write Sector decoded now opens a transfer: "image present and writable" (R166). -/
def State.writeOpens (s : State) : Prop :=
  ∃ m img, s.activeSlot = .image m img ∧ img.readOnly = false

/-- The selected slot is empty or refers to an open image. Every state that meets `State.Inv` has it (log
entry 9). -/
def State.ActiveSlotLive (s : State) : Prop := ∀ m, s.activeSlot ≠ .closed m

/-- The states a block built with the parameters `p` can be in: power-on, then any inputs the world delivers
and any steps (R9, R27). -/
inductive Reachable (p : Params) : State → Prop where
  | powerOn : Reachable p (State.powerOn p)
  | deliver (s : State) (ins : List Input) : Reachable p s → Reachable p { s with inputs := ins }
  | step (s t : State) : Reachable p s → Machine.step s = .next t → Reachable p t

end Sys2Proof.Machine
end

