-- ==== Sys2Proof/Certificates/Slice0/Obligations.lean ====
section
/-! DEFINITION. The statements for the provers. A statement about a next state writes that state out in terms of
the old one, so it says the result, the completion and the frame at once; the frames of whole groups
are stated again on their own. -/

open Sys2Proof Sys2Proof.Machine

/-! ### Encodings -/

/-- R70, R72, R73, R80: no bit of an encoding is dropped. -/
def Obligations.DecodeOfEncodeIsIdentity : Prop :=
  ∀ i : Instr, decode (encode i) = .ok i

/-- R70, R72, R73, R80: a word has one reading, and the reading keeps the whole word. -/
def Obligations.EncodeOfDecodeIsIdentity : Prop :=
  ∀ (r : Request) (i : Instr), decode r = .ok i → encode i = r

/-- R80: the six rows of the table, and which words are stimuli. The third clause is the model's choice (log entry
20): R80 says that a decoder refuses any other word, and the model lets `step` refuse it by name. -/
def Obligations.StimulusWordsDecodeExactlyWhenWellFormed : Prop :=
  (∀ (r : BitVec 3) (v : BitVec 8) (n m : BitVec 32) (d : BitVec 2),
    decode (.stimulus (0x0#4 ++ (0#1 ++ r) ++ 0#32)) = .ok (.stimRd r) ∧
    decode (.stimulus (0x1#4 ++ (0#1 ++ r) ++ (0#24 ++ v))) = .ok (.stimWr r v) ∧
    decode (.stimulus (0x2#4 ++ 0#4 ++ n)) = .ok (.tick n) ∧
    decode (.stimulus (0x3#4 ++ (0#2 ++ d) ++ m)) = .ok (.attach d m) ∧
    decode (.stimulus (0x4#4 ++ (0#2 ++ d) ++ 0#32)) = .ok (.detach d) ∧
    decode (.stimulus (0x5#4 ++ 0#4 ++ 0#32)) = .ok .reset) ∧
  (∀ w : BitVec 40, (∃ i, decode (.stimulus w) = .ok i) ↔ stimulusWellFormed w = true) ∧
  (∀ (s : State) (w : BitVec 40) (rest : List Input),
    s.inputs = .request (.stimulus w) :: rest → stimulusWellFormed w = false →
      ∃ why, step s = .refused (.notAStimulus why))

/-- R73: the class of every one of the 256 command bytes. -/
def Obligations.CommandByteClassMap : Prop :=
  ∀ v : BitVec 8,
    (v.toNat < 0x10 → decode (.command v) = .ok (.restore (v.extractLsb' 0 4))) ∧
    (0x10 ≤ v.toNat ∧ v.toNat < 0x20 → decode (.command v) = .ok (.seek (v.extractLsb' 0 4))) ∧
    (0x20 ≤ v.toNat ∧ v.toNat < 0x40 → decode (.command v) = .ok (.step (v.extractLsb' 0 5))) ∧
    (0x40 ≤ v.toNat ∧ v.toNat < 0x60 → decode (.command v) = .ok (.stepIn (v.extractLsb' 0 5))) ∧
    (0x60 ≤ v.toNat ∧ v.toNat < 0x80 → decode (.command v) = .ok (.stepOut (v.extractLsb' 0 5))) ∧
    (0x80 ≤ v.toNat ∧ v.toNat < 0xA0 → decode (.command v) = .ok (.rdSec (v.extractLsb' 0 5))) ∧
    (0xA0 ≤ v.toNat ∧ v.toNat < 0xC0 → decode (.command v) = .ok (.wrSec (v.extractLsb' 0 5))) ∧
    (0xC0 ≤ v.toNat ∧ v.toNat < 0xD0 → decode (.command v) = .ok (.rdAddr (v.extractLsb' 0 4))) ∧
    (0xD0 ≤ v.toNat ∧ v.toNat < 0xE0 →
      decode (.command v) = .ok (.forceInt (v.getLsbD 3) (v.extractLsb' 0 3))) ∧
    (0xE0 ≤ v.toNat → decode (.command v) = .ok (.other (v.extractLsb' 0 5)))

/-- R70, R71: the register a request names by `W` and `SEL`; the same map serves the stimulus words. -/
def Obligations.RegisterSelectMap : Prop :=
  (∀ d : BitVec 8,
    decode (.bus (0#1 ++ 0b000#3 ++ d)) = .ok (.rdStatus d) ∧
    decode (.bus (0#1 ++ 0b001#3 ++ d)) = .ok (.rdTrack d) ∧
    decode (.bus (0#1 ++ 0b010#3 ++ d)) = .ok (.rdSector d) ∧
    decode (.bus (0#1 ++ 0b011#3 ++ d)) = .ok (.rdData d) ∧
    decode (.bus (0#1 ++ 0b100#3 ++ d)) = .ok (.rdControl d) ∧
    decode (.bus (0#1 ++ 0b101#3 ++ d)) = .ok (.rdUnmapped5 d) ∧
    decode (.bus (0#1 ++ 0b110#3 ++ d)) = .ok (.rdUnmapped6 d) ∧
    decode (.bus (0#1 ++ 0b111#3 ++ d)) = .ok (.rdUnmapped7 d) ∧
    decode (.bus (1#1 ++ 0b000#3 ++ d)) = .ok (.wrCmd d) ∧
    decode (.bus (1#1 ++ 0b001#3 ++ d)) = .ok (.wrTrack d) ∧
    decode (.bus (1#1 ++ 0b010#3 ++ d)) = .ok (.wrSector d) ∧
    decode (.bus (1#1 ++ 0b011#3 ++ d)) = .ok (.wrData d) ∧
    decode (.bus (1#1 ++ 0b100#3 ++ d)) = .ok (.wrControl d) ∧
    decode (.bus (1#1 ++ 0b101#3 ++ d)) = .ok (.wrUnmapped5 d) ∧
    decode (.bus (1#1 ++ 0b110#3 ++ d)) = .ok (.wrUnmapped6 d) ∧
    decode (.bus (1#1 ++ 0b111#3 ++ d)) = .ok (.wrUnmapped7 d)) ∧
  (∀ (r : BitVec 3) (d v : BitVec 8) (s : State) (i j : Instr),
    decode (.bus (0#1 ++ r ++ d)) = .ok i → decode (.bus (1#1 ++ r ++ v)) = .ok j →
      exec (.stimRd r) s = exec i s ∧ exec (.stimWr r v) s = exec j s)

/-- R80, R110, R135, R90, R99, R140, R141: words written out by hand from their encodings, and where the host's word
numbering puts them. -/
def Obligations.WrittenOutWordsDecode : Prop :=
  decode (.command 0b00000111#8) = .ok (.restore 7) ∧
  decode (.command 0b11011010#8) = .ok (.forceInt true 2) ∧
  decode (.bus 0b000000000000#12) = .ok (.rdStatus 0) ∧
  decode (.bus 0b101110100101#12) = .ok (.wrData 0xA5) ∧
  decode (.stimulus 0x20000D2348#40) = .ok (.tick 861000) ∧
  decode (.stimulus 0x3200000001#40) = .ok (.attach 2 1) ∧
  decodeTableWord 8 0x8F = some (.rdSec 15) ∧
  decodeTableWord 16 0xC3D = some (.wrControl 0x3D) ∧
  decodeTableWord 40 0x4300000000 = some (.detach 3)

/-- R9, R58: a step performs the first delivered operation, whole, and takes it off the queue; with nothing
delivered only the outputs of the last operation go (log entries 1 and 5). -/
def Obligations.StepPerformsDeliveredOperation : Prop :=
  (∀ (s : State) (r : Request) (rest : List Input) (i : Instr),
    s.inputs = .request r :: rest → decode r = .ok i → step s = exec i { s with inputs := rest }) ∧
  (∀ (s : State) (h : HostOp) (rest : List Input),
    s.inputs = .host h :: rest → step s = execHost h { s with inputs := rest }) ∧
  (∀ s : State, s.inputs = [] →
    step s = .next { s with reply := none, events := [], hostResult := none }) ∧
  (∀ (s : State) (nbits w : Nat) (r : Request), requestOf nbits w = some r →
    s.withFetchWord nbits w = { s with inputs := .request r :: s.inputs })

/-- R75: two command bytes of one row that differ only in ignored bits do the same, but for `CMDR`. -/
def Obligations.IgnoredCommandBits : Prop :=
  ∀ (v w : Byte) (s t : State), commandClass v = commandClass w →
    (commandClass v = .forceInt → v.getLsbD 3 = w.getLsbD 3) →
    exec (.wrCmd v) s = .next t → exec (.wrCmd w) s = .next { t with cmdr := w }

/-- R96, R74: a command write does what the command of its byte does, in every state, and completes unless the
selected slot refers to an image that is not open (log entry 9). -/
def Obligations.CommandWriteIsItsCommand : Prop :=
  ∀ (v : Byte) (s : State),
    exec (.wrCmd v) s = exec (decodeCommand v) s ∧
    exec (.stimWr 0 v) s = exec (decodeCommand v) s ∧
    (s.ActiveSlotLive → ∃ t, exec (.wrCmd v) s = .next t ∧ t.cmdr = v ∧ t.reply = none ∧
      t.events.length ≤ 1 ∧ (t.drq = true → t.events = [.drqEv]) ∧ (t.rnf = true → t.events = [.irq]) ∧
      (t.wp = true → t.events = [.irq]))

/-! ### Reset and the invariant -/

/-- R29: the state after power-on, for every value of the open parameters. -/
def Obligations.PowerOnState : Prop :=
  ∀ p : Params,
    (State.powerOn p).st = .idle ∧
    (∀ d : Drive, (State.powerOn p).slots.get d = none) ∧
    (State.powerOn p).notReady = true ∧
    (State.powerOn p).busy = false ∧ (State.powerOn p).drq = false ∧
    (State.powerOn p).rnf = false ∧ (State.powerOn p).wp = false ∧
    (State.powerOn p).delay = 0 ∧ (State.powerOn p).pos = 0 ∧ (State.powerOn p).len = 0 ∧
    (State.powerOn p).tr = p.resetTrack ∧ (State.powerOn p).sr = p.resetSector ∧
    (State.powerOn p).dr = p.resetData ∧ (State.powerOn p).cr = p.resetControl ∧
    (State.powerOn p).status = 0x80

/-- R170: what `RESET` writes, and that it writes nothing else and emits nothing. -/
def Obligations.ResetOperation : Prop :=
  decode (.stimulus 0x5000000000#40) = .ok .reset ∧
  ∀ s : State, ∃ t, exec .reset s = .next t ∧
    t = { s with
      st := .idle, busy := false, drq := false, rnf := false, wp := false,
      delay := 0, pos := 0, len := 0,
      tr := s.params.resetTrack, sr := s.params.resetSector, dr := s.params.resetData,
      cr := s.params.resetControl, reply := none, events := [], hostResult := none } ∧
    (t.notReady = true ↔ s.slots.get (s.params.resetControl.extractLsb' 0 2) = none)

/-- R5, R27: the invariant holds at power-on for every admissible choice of the parameters, the suggested
one among them. That `State.reset` is power-on with the suggested parameters is the model's choice (log entry 4). -/
def Obligations.PowerOnMeetsInvariant : Prop :=
  (∀ p : Params, p.Valid → (State.powerOn p).Inv) ∧
    State.reset = State.powerOn Params.suggested ∧ State.reset.Inv

/-- R27, R183, R26: the invariant survives every step, whatever is delivered. Its part on the slots rests on the model's
choices that `ATTACH` of an index with no open image leaves the slot empty (log entry 10) and that the
host's close of an attached image is refused (log entry 8). -/
def Obligations.StepKeepsInvariant : Prop :=
  ∀ s t : State, s.Inv → step s = .next t → t.Inv

/-- R27, parts (a) to (e), of every state a block with admissible parameters can reach. -/
def Obligations.ReachableStatesMeetSequencerInvariant : Prop :=
  ∀ (p : Params) (s : State), p.Valid → Reachable p s →
    (s.st = .idle → s.busy = false ∧ s.drq = false ∧ s.delay = 0) ∧
    (s.st = .busy → s.busy = true ∧ s.drq = false ∧ 1 ≤ s.delay.toNat) ∧
    ((s.st = .xferRead ∨ s.st = .xferWrite) →
      s.busy = true ∧ s.drq = true ∧ s.delay = 0 ∧ (s.len = 6 ∨ s.len = 256) ∧
        s.pos.toNat < s.len.toNat) ∧
    (s.st = .xferWrite → s.len = 256) ∧
    s.pos.toNat ≤ s.len.toNat ∧
    ((s.rnf = true ∨ s.wp = true) → s.st = .idle)

/-- R158, R183: no step of a reachable state faults, whatever is delivered: no reachable slot refers to an image
that is not open (log entry 9). That none does rests on the model's choices of log entries 8 (a close of
an attached image is refused) and 10 (`ATTACH` of an index with no open image leaves the slot empty). -/
def Obligations.ReachableStepsNeverFault : Prop :=
  ∀ (p : Params) (s : State) (f : Fault), p.Valid → Reachable p s → step s ≠ .fault f

/-! ### Status -/

/-- R17, R15, R90: the byte `RD STATUS` returns, and that the read changes nothing. -/
def Obligations.StatusReadReturnsStatusByte : Prop :=
  decode (.stimulus 0x0000000000#40) = .ok (.stimRd 0) ∧
  ∀ (d : Byte) (s : State), ∃ v : Byte,
    exec (.rdStatus d) s = .next { s with reply := some v, events := [], hostResult := none } ∧
    exec (.stimRd 0) s = .next { s with reply := some v, events := [], hostResult := none } ∧
    v.toNat = s.busy.toNat + 2 * s.drq.toNat + 16 * s.rnf.toNat + 64 * s.wp.toNat +
      128 * (if s.slots.get s.drive = none then 1 else 0) ∧
    v.getLsbD 2 = false ∧ v.getLsbD 3 = false ∧ v.getLsbD 5 = false

/-- R76, R21: the ten values that can be read at `STATUS`, and the buffer's validity signals, where the sequencer
is sound (R27). -/
def Obligations.StatusTakesTenValues : Prop :=
  ∀ s : State, s.SequencerSound →
    s.status ∈ ([0x00, 0x01, 0x03, 0x10, 0x40, 0x80, 0x81, 0x83, 0x90, 0xC0] : List Byte) ∧
    (s.bufValid = true ↔ s.st = .xferRead ∨ s.st = .xferWrite) ∧ (s.bufValid = s.drq) ∧
    (s.st = .xferRead → s.bufDir = some .read) ∧ (s.st = .xferWrite → s.bufDir = some .write) ∧
    (s.bufValid = true → s.bufRemaining = s.len.toNat - s.pos.toNat ∧ 1 ≤ s.bufRemaining) ∧
    (s.bufValid = false → s.bufRemaining = 0)

/-- R16, R170: `NOTREADY` is what the selected slot says and moves only with `WR CONTROL`, `ATTACH`, `DETACH` and
`RESET` (which writes `CR`). -/
def Obligations.NotReadyFollowsSlotAndSelection : Prop :=
  (∀ s : State, s.notReady = true ↔ s.slots.get (s.cr.extractLsb' 0 2) = none) ∧
  (∀ (i : Instr) (s t : State), exec i s = .next t → t.notReady ≠ s.notReady →
    (∃ v, i = .wrControl v) ∨ (∃ v, i = .stimWr 4 v) ∨ (∃ d m, i = .attach d m) ∨
      (∃ d, i = .detach d) ∨ i = .reset)

/-! ### Register reads and writes -/

/-- R91, R92, R94: the plain register reads return the register and change nothing, in any sequencer state;
no command changes `SR`, and after Restore the track reads 0. -/
def Obligations.TrackSectorControlReads : Prop :=
  decode (.stimulus 0x0100000000#40) = .ok (.stimRd 1) ∧
  decode (.stimulus 0x0200000000#40) = .ok (.stimRd 2) ∧
  decode (.stimulus 0x0400000000#40) = .ok (.stimRd 4) ∧
  (∀ (d : Byte) (s : State),
    decode (.bus (0x1#4 ++ d)) = .ok (.rdTrack d) ∧
    exec (.rdTrack d) s = .next { s with reply := some s.tr, events := [], hostResult := none } ∧
    exec (.stimRd 1) s = .next { s with reply := some s.tr, events := [], hostResult := none } ∧
    decode (.bus (0x2#4 ++ d)) = .ok (.rdSector d) ∧
    exec (.rdSector d) s = .next { s with reply := some s.sr, events := [], hostResult := none } ∧
    exec (.stimRd 2) s = .next { s with reply := some s.sr, events := [], hostResult := none } ∧
    decode (.bus (0x4#4 ++ d)) = .ok (.rdControl d) ∧
    exec (.rdControl d) s = .next { s with reply := some s.cr, events := [], hostResult := none } ∧
    exec (.stimRd 4) s = .next { s with reply := some s.cr, events := [], hostResult := none }) ∧
  (∀ (v : Byte) (s t : State), exec (.wrCmd v) s = .next t → t.sr = s.sr) ∧
  (∀ (x : BitVec 4) (s : State), ∃ t, exec (.restore x) s = .next t ∧ t.tr = 0x00)

/-- R93: a data read in a read transfer delivers `buf[pos]`, leaves it in `DR`, and ends the transfer with one
`IRQ` on the last byte; in every other state it returns `DR` and changes nothing. -/
def Obligations.DataRead : Prop :=
  decode (.stimulus 0x0300000000#40) = .ok (.stimRd 3) ∧
  ∀ (i : Instr) (s : State), readsData i →
    (s.st ≠ .xferRead →
      exec i s = .next { s with reply := some s.dr, events := [], hostResult := none }) ∧
    (∀ v : Byte, s.st = .xferRead → s.buf[s.pos.toNat]? = some v →
      (s.pos + 1 ≠ s.len →
        exec i s = .next { s with
          dr := v, pos := s.pos + 1, reply := some v, events := [], hostResult := none }) ∧
      (s.pos + 1 = s.len →
        exec i s = .next { s with
          dr := v, pos := s.pos + 1, busy := false, drq := false, st := .idle, delay := 0,
          reply := some v, events := [.irq], hostResult := none }))

/-- R95, R101: reads of the unmapped selects return 0xFF, writes to them are dropped. -/
def Obligations.UnmappedSelects : Prop :=
  decode (.stimulus 0x0500000000) = .ok (.stimRd 5) ∧ decode (.stimulus 0x0600000000) = .ok (.stimRd 6) ∧
  decode (.stimulus 0x0700000000) = .ok (.stimRd 7) ∧
  (∀ v : Byte,
    decode (.stimulus (0x15000000#32 ++ v)) = .ok (.stimWr 5 v) ∧
    decode (.stimulus (0x16000000#32 ++ v)) = .ok (.stimWr 6 v) ∧
    decode (.stimulus (0x17000000#32 ++ v)) = .ok (.stimWr 7 v)) ∧
  ∀ (d v : Byte) (r : Select) (s : State), 5 ≤ r.toNat →
    exec (.rdUnmapped5 d) s = .next { s with reply := some 0xFF, events := [], hostResult := none } ∧
    exec (.rdUnmapped6 d) s = .next { s with reply := some 0xFF, events := [], hostResult := none } ∧
    exec (.rdUnmapped7 d) s = .next { s with reply := some 0xFF, events := [], hostResult := none } ∧
    exec (.stimRd r) s = .next { s with reply := some 0xFF, events := [], hostResult := none } ∧
    exec (.wrUnmapped5 v) s = .next { s with reply := none, events := [], hostResult := none } ∧
    exec (.wrUnmapped6 v) s = .next { s with reply := none, events := [], hostResult := none } ∧
    exec (.wrUnmapped7 v) s = .next { s with reply := none, events := [], hostResult := none } ∧
    exec (.stimWr r v) s = .next { s with reply := none, events := [], hostResult := none }

/-- R97, R98, R100: the plain register writes store the byte and nothing else; `CONTROL` moves `drive`, `side`
and `NOTREADY` at once. -/
def Obligations.TrackSectorControlWrites : Prop :=
  (∀ v : Byte,
    decode (.stimulus (0x11000000#32 ++ v)) = .ok (.stimWr 1 v) ∧
    decode (.stimulus (0x12000000#32 ++ v)) = .ok (.stimWr 2 v) ∧
    decode (.stimulus (0x14000000#32 ++ v)) = .ok (.stimWr 4 v) ∧
    decode (.bus (0x9#4 ++ v)) = .ok (.wrTrack v) ∧
    decode (.bus (0xA#4 ++ v)) = .ok (.wrSector v) ∧
    decode (.bus (0xC#4 ++ v)) = .ok (.wrControl v)) ∧
  ∀ (v : Byte) (s : State),
    exec (.wrTrack v) s = .next { s with tr := v, reply := none, events := [], hostResult := none } ∧
    exec (.stimWr 1 v) s = .next { s with tr := v, reply := none, events := [], hostResult := none } ∧
    exec (.wrSector v) s = .next { s with sr := v, reply := none, events := [], hostResult := none } ∧
    exec (.stimWr 2 v) s = .next { s with sr := v, reply := none, events := [], hostResult := none } ∧
    (∃ t, exec (.wrControl v) s = .next t ∧ exec (.stimWr 4 v) s = .next t ∧
      t = { s with cr := v, reply := none, events := [], hostResult := none } ∧
      t.drive = v.extractLsb' 0 2 ∧ t.side = v.extractLsb' 4 1 ^^^ s.params.sideInvert ∧
      (t.notReady = true ↔ s.slots.get (v.extractLsb' 0 2) = none))

/-- R99, but for the last byte of a transfer: the byte goes to `DR`, and in a write transfer also to
`buf[pos]`. -/
def Obligations.DataWriteCollects : Prop :=
  ∀ (i : Instr) (v : Byte) (s : State), dataByteOf i = some v →
    (s.st ≠ .xferWrite →
      exec i s = .next { s with dr := v, reply := none, events := [], hostResult := none }) ∧
    (s.st = .xferWrite → s.pos + 1 ≠ s.len →
      exec i s = .next { s with
        dr := v, buf := s.buf.set s.pos.toNat v, pos := s.pos + 1,
        reply := none, events := [], hostResult := none })

/-- R102, R103: every outcome of the commit, with the one `IRQ` it always emits; the drive is the one selected
now, the address the latched one. -/
def Obligations.LastDataWriteCommits : Prop :=
  ∀ (i : Instr) (v : Byte) (s : State), dataByteOf i = some v → s.st = .xferWrite → s.pos + 1 = s.len →
    (s.slots.get s.drive = none →
      exec i s = .next { s with
        dr := v, buf := s.buf.set s.pos.toNat v, pos := s.pos + 1, rnf := true,
        busy := false, drq := false, st := .idle, delay := 0,
        reply := none, events := [.irq], hostResult := none }) ∧
    (∀ (m : Nat) (img : Image), s.slots.get s.drive = some m → s.imageAt m = some img →
      (img.readOnly = true →
        exec i s = .next { s with
          dr := v, buf := s.buf.set s.pos.toNat v, pos := s.pos + 1, wp := true,
          busy := false, drq := false, st := .idle, delay := 0,
          reply := none, events := [.irq], hostResult := none }) ∧
      (img.readOnly = false →
        ¬(s.ltrk.toNat < img.tracks ∧ s.lside.toNat < img.sides ∧ s.lsec.toNat < 16 ∧
          sectorOffset img s.ltrk.toNat s.lside.toNat s.lsec.toNat + 256 ≤ img.size) →
        exec i s = .next { s with
          dr := v, buf := s.buf.set s.pos.toNat v, pos := s.pos + 1, rnf := true,
          busy := false, drq := false, st := .idle, delay := 0,
          reply := none, events := [.irq], hostResult := none }) ∧
      (img.readOnly = false → s.ltrk.toNat < img.tracks → s.lside.toNat < img.sides →
        s.lsec.toNat < 16 →
        sectorOffset img s.ltrk.toNat s.lside.toNat s.lsec.toNat + 256 ≤ img.size →
        exec i s = .next { s with
          dr := v, buf := s.buf.set s.pos.toNat v, pos := s.pos + 1,
          images := s.images.set m (some { img with
            store := img.store.writeRange (sectorOffset img s.ltrk.toNat s.lside.toNat s.lsec.toNat)
              (s.buf.set s.pos.toNat v),
            dirty := true }),
          busy := false, drq := false, st := .idle, delay := 0,
          reply := none, events := [.irq], hostResult := none }))

/-- R102, R45: the bytes of memory a commit stores to are the 256 of the latched sector, which then hold the
buffer; every other byte of every image reads as before. -/
def Obligations.CommitStoresTheLatchedSector : Prop :=
  ∀ (i : Instr) (v : Byte) (s t : State) (m : Nat) (img : Image),
    dataByteOf i = some v → s.st = .xferWrite → s.pos + 1 = s.len → s.buf.length = 256 →
    s.activeSlot = .image m img → img.readOnly = false →
    inGeometry img s.ltrk.toNat s.lside.toNat s.lsec.toNat = true →
    sectorOffset img s.ltrk.toNat s.lside.toNat s.lsec.toNat + 256 ≤ img.size →
    exec i s = .next t →
    (∀ k : Nat, k < 256 →
      t.storeByte m (sectorOffset img s.ltrk.toNat s.lside.toNat s.lsec.toNat + k) =
        (s.buf.set s.pos.toNat v)[k]?) ∧
    (∀ m' a : Nat,
      ¬(m' = m ∧ sectorOffset img s.ltrk.toNat s.lside.toNat s.lsec.toNat ≤ a ∧
        a < sectorOffset img s.ltrk.toNat s.lside.toNat s.lsec.toNat + 256) →
      t.storeByte m' a = s.storeByte m' a)

/-! ### Type I commands and the tick -/

/-- R110, R112: Restore and Step. -/
def Obligations.RestoreAndStep : Prop :=
  ∀ s : State,
    (∀ x : BitVec 4, exec (.restore x) s = .next { s with
      cmdr := 0x0#4 ++ x, rnf := false, wp := false, drq := false,
      tr := 0x00, delay := s.params.delayRestore, busy := true, st := .busy, pos := 0, len := 0,
      reply := none, events := [], hostResult := none }) ∧
    (∀ x : BitVec 5, exec (.step x) s = .next { s with
      cmdr := 0b001#3 ++ x, rnf := false, wp := false, drq := false,
      delay := s.params.delayStep, busy := true, st := .busy, pos := 0, len := 0,
      reply := none, events := [], hostResult := none })

/-- R111: the track becomes the data register at once, and the delay grows with the distance. -/
def Obligations.SeekMovesToDataRegister : Prop :=
  ∀ (x : BitVec 4) (s : State) (n : Nat),
    n = s.params.delaySeekBase.toNat +
      ((s.dr.toNat : Int) - (s.tr.toNat : Int)).natAbs * s.params.delaySeekPerTrack.toNat →
    exec (.seek x) s = .next { s with
      cmdr := 0x1#4 ++ x, rnf := false, wp := false, drq := false,
      tr := s.dr, delay := BitVec.ofNat 32 n, busy := true, st := .busy, pos := 0, len := 0,
      reply := none, events := [], hostResult := none } ∧
    (s.params.Valid → 1 ≤ n ∧ (BitVec.ofNat 32 n).toNat = n)

/-- R113, R114: Step-In counts up below `MAX_TRACK` only, Step-Out down above 0 only; both load the same delay. -/
def Obligations.StepInStepOutClamp : Prop :=
  ∀ (x : BitVec 5) (s : State), ∃ up down : Byte,
    exec (.stepIn x) s = .next { s with
      cmdr := 0b010#3 ++ x, rnf := false, wp := false, drq := false,
      tr := up, delay := s.params.delayStep, busy := true, st := .busy, pos := 0, len := 0,
      reply := none, events := [], hostResult := none } ∧
    (s.tr.toNat < s.params.maxTrack.toNat → up.toNat = s.tr.toNat + 1) ∧
    (s.params.maxTrack.toNat ≤ s.tr.toNat → up = s.tr) ∧
    exec (.stepOut x) s = .next { s with
      cmdr := 0b011#3 ++ x, rnf := false, wp := false, drq := false,
      tr := down, delay := s.params.delayStep, busy := true, st := .busy, pos := 0, len := 0,
      reply := none, events := [], hostResult := none } ∧
    (0 < s.tr.toNat → down.toNat = s.tr.toNat - 1) ∧
    (s.tr = 0 → down = 0)

/-- R115, R140: a type I command needs no image, reads 0x01 or 0x81 while it runs, and ends in the tick that
exhausts its delay, with one `IRQ` and its track. -/
def Obligations.TypeOneRunsToOneIrq : Prop :=
  ∀ (v : Byte) (s : State), isTypeOne (commandClass v) = true → s.params.Valid →
    ∃ t, exec (.wrCmd v) s = .next t ∧ t.events = [] ∧ 1 ≤ t.delay.toNat ∧
      t.status = (if s.notReady then 0x81 else 0x01) ∧
      (∀ n : Ticks, n.toNat < t.delay.toNat → ∃ u, exec (.tick n) t = .next u ∧
        u.st = .busy ∧ u.events = [] ∧ u.delay.toNat = t.delay.toNat - n.toNat ∧ u.tr = t.tr) ∧
      (∀ n : Ticks, t.delay.toNat ≤ n.toNat → ∃ u, exec (.tick n) t = .next u ∧
        u.st = .idle ∧ u.events = [.irq] ∧ u.delay = 0 ∧ u.tr = t.tr ∧
        u.status = (if s.notReady then 0x80 else 0x00))

/-- R140: saturating subtraction, and expiry in `Busy` only. -/
def Obligations.TickCountsDown : Prop :=
  (∀ n : Ticks, decode (.stimulus (0x20#8 ++ n)) = .ok (.tick n)) ∧
  ∀ (n : Ticks) (s : State),
    (s.st = .busy → s.delay.toNat ≤ n.toNat → exec (.tick n) s = .next { s with
      delay := 0, busy := false, drq := false, st := .idle,
      reply := none, events := [.irq], hostResult := none }) ∧
    (s.st = .busy → n.toNat < s.delay.toNat → exec (.tick n) s = .next { s with
      delay := s.delay - n, reply := none, events := [], hostResult := none }) ∧
    (s.st ≠ .busy → ∃ k : Ticks, k.toNat = s.delay.toNat - n.toNat ∧
      exec (.tick n) s = .next { s with
        delay := k, reply := none, events := [], hostResult := none }) ∧
    (s.st ≠ .busy → s.delay = 0 →
      exec (.tick n) s = .next { s with reply := none, events := [], hostResult := none })

/-- R140: two ticks are one tick of their sum, where the sum is a tick's argument. -/
def Obligations.TicksAdd : Prop :=
  ∀ (a b : Ticks) (s : State), a.toNat + b.toNat < 2 ^ 32 →
    ∃ t u, exec (.tick a) s = .next t ∧ exec (.tick b) t = .next u ∧
      exec (.tick (a + b)) s = .next { u with events := t.events ++ u.events }

/-! ### Transfer commands -/

/-- R120: the outcomes of Read Sector. -/
def Obligations.ReadSectorOutcomes : Prop :=
  ∀ (x : BitVec 5) (s : State),
    (s.slots.get s.drive = none → exec (.rdSec x) s = .next { s with
      cmdr := 0b100#3 ++ x, rnf := true, wp := false, drq := false, busy := false, st := .idle,
      delay := 0, pos := 0, len := 0, reply := none, events := [.irq], hostResult := none }) ∧
    (∀ (m : Nat) (img : Image), s.slots.get s.drive = some m → s.imageAt m = some img →
      (¬(s.tr.toNat < img.tracks ∧ s.side.toNat < img.sides ∧ (s.sr - 1).toNat < 16 ∧
          s.tr.toNat * img.sides * 4096 + s.side.toNat * 4096 + (s.sr - 1).toNat * 256 + 256 ≤ img.size) →
        exec (.rdSec x) s = .next { s with
          cmdr := 0b100#3 ++ x, rnf := true, wp := false, drq := false, busy := false, st := .idle,
          delay := 0, pos := 0, len := 0, reply := none, events := [.irq], hostResult := none }) ∧
      (s.tr.toNat < img.tracks → s.side.toNat < img.sides → (s.sr - 1).toNat < 16 →
        s.tr.toNat * img.sides * 4096 + s.side.toNat * 4096 + (s.sr - 1).toNat * 256 + 256 ≤ img.size →
        ∃ r : List Byte, r.length = 256 ∧
          (∀ k, k < 256 → r[k]? = s.storeByte m
            (s.tr.toNat * img.sides * 4096 + s.side.toNat * 4096 + (s.sr - 1).toNat * 256 + k)) ∧
          exec (.rdSec x) s = .next { s with
            cmdr := 0b100#3 ++ x, rnf := false, wp := false, drq := true, busy := true, st := .xferRead,
            delay := 0, pos := 0, len := 256, buf := r,
            reply := none, events := [.drqEv], hostResult := none }))

/-- R121: the outcomes of Write Sector; the address is not tested. -/
def Obligations.WriteSectorOutcomes : Prop :=
  ∀ (x : BitVec 5) (s : State),
    (s.slots.get s.drive = none → exec (.wrSec x) s = .next { s with
      cmdr := 0b101#3 ++ x, rnf := true, wp := false, drq := false, busy := false, st := .idle,
      delay := 0, pos := 0, len := 0, reply := none, events := [.irq], hostResult := none }) ∧
    (∀ (m : Nat) (img : Image), s.slots.get s.drive = some m → s.imageAt m = some img →
      (img.readOnly = true → exec (.wrSec x) s = .next { s with
        cmdr := 0b101#3 ++ x, rnf := false, wp := true, drq := false, busy := false, st := .idle,
        delay := 0, pos := 0, len := 0, reply := none, events := [.irq], hostResult := none }) ∧
      (img.readOnly = false → exec (.wrSec x) s = .next { s with
        cmdr := 0b101#3 ++ x, rnf := false, wp := false, drq := true, busy := true, st := .xferWrite,
        delay := 0, pos := 0, len := 256, buf := zeroBuffer,
        ltrk := s.tr, lside := s.side, lsec := s.sr - 1,
        reply := none, events := [.drqEv], hostResult := none }))

/-- The model's choice (log entry 9): Read Sector, Write Sector and the commit of a write transfer stop with a fault
where the selected slot refers to an image that is not open. R183 gives such an operation no meaning, and
says a model has no such state: no reachable one has (`Obligations.ReachableStepsNeverFault`). -/
def Obligations.ClosedImageStopsTransfers : Prop :=
  ∀ (s : State) (m : Nat), s.slots.get s.drive = some m → s.imageAt m = none →
    (∀ x : BitVec 5, exec (.rdSec x) s = .fault (.closedImage m) ∧
      exec (.wrSec x) s = .fault (.closedImage m)) ∧
    (∀ (i : Instr) (v : Byte), dataByteOf i = some v → s.st = .xferWrite → s.pos + 1 = s.len →
      exec i s = .fault (.closedImage m))

/-- R122, R79: the six identifier bytes, the rest of the buffer untouched, no image needed. -/
def Obligations.ReadAddressIdentifier : Prop :=
  ∀ (x : BitVec 4) (s : State), s.buf.length = 256 → ∃ b : List Byte,
    exec (.rdAddr x) s = .next { s with
      cmdr := 0xC#4 ++ x, rnf := false, wp := false, drq := true, busy := true, st := .xferRead,
      delay := 0, pos := 0, len := 6, buf := b,
      reply := none, events := [.drqEv], hostResult := none } ∧
    b.length = 256 ∧
    b.take 6 = [s.tr, s.side.setWidth 8, s.sr, s.params.raSizeCode, s.params.raTrail0, s.params.raTrail1] ∧
    (∀ k, 6 ≤ k → k < 256 → b[k]? = s.buf[k]?)

/-- R123 (a), (c), (f): a read transfer delivers its bytes in order, one per data read, the last with the one
`IRQ`, and stores nothing. -/
def Obligations.ReadTransferDeliversBuffer : Prop :=
  ∀ (s : State) (ds : List Byte), s.st = .xferRead → s.pos = 0 → 0 < ds.length →
    ds.length = s.len.toNat → ds.length ≤ s.buf.length →
    ∃ t out, s.perform (ds.map Instr.rdData) = some (t, out) ∧
      out.map (·.1) = (s.buf.take ds.length).map some ∧
      out.map (·.2) = List.replicate (ds.length - 1) [] ++ [[Event.irq]] ∧
      t.st = .idle ∧ t.busy = false ∧ t.drq = false ∧ t.pos = s.len ∧
      s.buf.take ds.length = s.buf.take (ds.length - 1) ++ [t.dr] ∧
      t.images = s.images ∧ t.tr = s.tr ∧ t.sr = s.sr

/-- R121, R99, R102, R123 (b), (f): Write Sector and 256 data writes put exactly those bytes into the sector,
byte `k` at offset `k`, change no other byte of any image, and raise one `DRQ_EV` and one `IRQ`. -/
def Obligations.WriteTransferCommitsItsBytes : Prop :=
  ∀ (s : State) (x : BitVec 5) (bs : List Byte) (m : Nat) (img : Image),
    s.activeSlot = .image m img → img.readOnly = false → bs.length = 256 →
    inGeometry img s.tr.toNat s.side.toNat s.secIndex.toNat = true →
    sectorOffset img s.tr.toNat s.side.toNat s.secIndex.toNat + 256 ≤ img.size →
    ∃ t out, s.perform (.wrSec x :: bs.map Instr.wrData) = some (t, out) ∧
      out.map (·.2) = [[Event.drqEv]] ++ List.replicate 255 [] ++ [[Event.irq]] ∧
      t.st = .idle ∧ t.busy = false ∧ t.drq = false ∧ t.rnf = false ∧ t.wp = false ∧
      (∀ k, k < 256 →
        t.storeByte m (sectorOffset img s.tr.toNat s.side.toNat s.secIndex.toNat + k) = bs[k]?) ∧
      (∀ m' a,
        ¬(m' = m ∧ sectorOffset img s.tr.toNat s.side.toNat s.secIndex.toNat ≤ a ∧
          a < sectorOffset img s.tr.toNat s.side.toNat s.secIndex.toNat + 256) →
        t.storeByte m' a = s.storeByte m' a) ∧
      (∃ img', t.imageAt m = some img' ∧ img'.dirty = true)

/-- R58 through the registers: a sector written by Write Sector is read back by Read Sector, byte for byte. -/
def Obligations.WrittenSectorReadsBack : Prop :=
  ∀ (s : State) (x y : BitVec 5) (bs ds : List Byte) (m : Nat) (img : Image),
    s.activeSlot = .image m img → img.readOnly = false → bs.length = 256 → ds.length = 256 →
    inGeometry img s.tr.toNat s.side.toNat s.secIndex.toNat = true →
    sectorOffset img s.tr.toNat s.side.toNat s.secIndex.toNat + 256 ≤ img.size →
    ∃ t out,
      s.perform (.wrSec x :: (bs.map Instr.wrData ++ .rdSec y :: ds.map Instr.rdData)) = some (t, out) ∧
      (out.drop 258).map (·.1) = bs.map some ∧ t.st = .idle ∧ irqCount out = 2 ∧ drqCount out = 2

/-- R135, R136: Force Interrupt and the other patterns abort whatever runs; only the immediate bit of Force Interrupt
emits `IRQ`. -/
def Obligations.ForceInterruptAndOtherPatterns : Prop :=
  ∀ s : State,
    (∀ (i : Bool) (x : BitVec 3), exec (.forceInt i x) s = .next { s with
      cmdr := 0xD#4 ++ (BitVec.ofBool i ++ x), rnf := false, wp := false, drq := false,
      busy := false, delay := 0, st := .idle, pos := 0, len := 0,
      reply := none, events := if i then [.irq] else [], hostResult := none }) ∧
    (∀ x : BitVec 5, exec (.other x) s = .next { s with
      cmdr := 0b111#3 ++ x, rnf := false, wp := false, drq := false,
      busy := false, delay := 0, st := .idle, pos := 0, len := 0,
      reply := none, events := [], hostResult := none })

/-! ### Slots and images -/

/-- R141: attaching an open image stores its reference and nothing else; `NOTREADY` falls at once if the drive
is the selected one. -/
def Obligations.AttachStoresReference : Prop :=
  (∀ (d : Drive) (m : BitVec 32), decode (.stimulus (0b001100#6 ++ d ++ m)) = .ok (.attach d m)) ∧
  ∀ (d : Drive) (m : BitVec 32) (s : State) (img : Image), s.imageAt m.toNat = some img →
    ∃ t, exec (.attach d m) s = .next t ∧
      t = { s with slots := t.slots, reply := none, events := [], hostResult := none } ∧
      t.slots.get d = some m.toNat ∧ (∀ e, e ≠ d → t.slots.get e = s.slots.get e) ∧
      (d = s.drive → t.notReady = false) ∧ (d ≠ s.drive → t.notReady = s.notReady)

/-- R142, R176: detaching empties the slot and nothing else. Whenever in a transfer it comes, a read transfer goes on
from the buffer and ends normally, on whichever drive; a write transfer on that drive takes the rest of its
bytes and ends with `RNF` and no store change. -/
def Obligations.DetachEmptiesSlot : Prop :=
  (∀ d : Drive, decode (.stimulus (0b010000#6 ++ d ++ 0#32)) = .ok (.detach d)) ∧
  ∀ (d : Drive) (s : State), ∃ t, exec (.detach d) s = .next t ∧
    t = { s with slots := t.slots, reply := none, events := [], hostResult := none } ∧
    t.slots.get d = none ∧ (∀ e, e ≠ d → t.slots.get e = s.slots.get e) ∧
    (s.slots.get d = none → t.slots = s.slots) ∧
    (d = s.drive → t.notReady = true) ∧ (d ≠ s.drive → t.notReady = s.notReady) ∧
    (∀ is : List Instr, s.st = .xferRead → (∀ i ∈ is, readsData i) → 0 < is.length →
      s.pos.toNat + is.length = s.len.toNat → s.len.toNat ≤ s.buf.length →
      ∃ u out, t.perform is = some (u, out) ∧
        out.map (·.1) = ((s.buf.drop s.pos.toNat).take is.length).map some ∧
        out.map (·.2) = List.replicate (is.length - 1) [] ++ [[Event.irq]] ∧
        u.st = .idle ∧ u.busy = false ∧ u.drq = false ∧ u.pos = s.len ∧ u.rnf = s.rnf ∧ u.wp = s.wp ∧
        u.images = s.images) ∧
    (∀ (is : List Instr) (bs : List Byte), d = s.drive → s.st = .xferWrite →
      is.map dataByteOf = bs.map some → 0 < is.length → s.pos.toNat + is.length = s.len.toNat →
      ∃ u out, t.perform is = some (u, out) ∧
        out.map (·.2) = List.replicate (is.length - 1) [] ++ [[Event.irq]] ∧
        u.st = .idle ∧ u.busy = false ∧ u.drq = false ∧ u.pos = s.len ∧ u.rnf = true ∧ u.wp = s.wp ∧
        u.images = s.images)

/-- R43: the addressing function, its alignment and its bound. -/
def Obligations.AddressingFunction : Prop :=
  ∀ (img : Image) (t s sec : Nat),
    sectorOffset img t s sec = t * img.sides * 4096 + s * 4096 + sec * 256 ∧
    sectorOffset img t s sec % 256 = 0 ∧
    (t ≤ 253 → img.sides ≤ 2 → s ≤ 1 → sec ≤ 15 →
      sectorOffset img t s sec ≤ 2080512 ∧ sectorOffset img t s sec < 2 ^ 21)

/-- R44: the range test first, then the store bound, then the 256 bytes. -/
def Obligations.ReadSectorPort : Prop :=
  ∀ (img : Image) (t s sec : Nat),
    (t ≥ img.tracks ∨ s ≥ img.sides ∨ sec ≥ 16 → readSector img t s sec = .error .addressOutOfRange) ∧
    (t < img.tracks → s < img.sides → sec < 16 →
      (sectorOffset img t s sec + 256 > img.size → readSector img t s sec = .error .ioFault) ∧
      (sectorOffset img t s sec + 256 ≤ img.size → ∃ r, readSector img t s sec = .ok r ∧ r.length = 256 ∧
        ∀ k, k < 256 → r[k]? = some (img.store.read (sectorOffset img t s sec + k))))

/-- R45: read-only first, then as a read; a success replaces the 256 bytes, marks the image dirty, and changes
nothing else. -/
def Obligations.WriteSectorPort : Prop :=
  ∀ (img : Image) (t s sec : Nat) (data : List Byte), data.length = 256 →
    (img.readOnly = true → writeSector img t s sec data = .error .readOnly) ∧
    (img.readOnly = false →
      (t ≥ img.tracks ∨ s ≥ img.sides ∨ sec ≥ 16 →
        writeSector img t s sec data = .error .addressOutOfRange) ∧
      (t < img.tracks → s < img.sides → sec < 16 →
        (sectorOffset img t s sec + 256 > img.size → writeSector img t s sec data = .error .ioFault) ∧
        (sectorOffset img t s sec + 256 ≤ img.size → ∃ img',
          writeSector img t s sec data = .ok img' ∧
          img' = { img with store := img'.store, dirty := true } ∧
          (∀ k, k < 256 → some (img'.store.read (sectorOffset img t s sec + k)) = data[k]?) ∧
          (∀ a, a < sectorOffset img t s sec ∨ sectorOffset img t s sec + 256 ≤ a →
            img'.store.read a = img.store.read a))))

/-- R48, R49, R50: what `open` gives for every content and every request. -/
def Obligations.GeometryResolution : Prop :=
  ∀ (bytes : List Byte) (want granted : Bool) (b : Nat), b ≤ 233 →
    (bytes.length ≠ 655360 ∧ bytes.length ≠ 327680 →
      openImage bytes want granted b = .error .unsupportedSize) ∧
    (bytes.length = 655360 ∨ bytes.length = 327680 → ∃ (img : Image) (c : Byte),
      openImage bytes want granted b = .ok img ∧ bytes[2048 + b]? = some c ∧
      (img.tracks, img.sides) = (if c = 0x16 then (80, 2) else if c = 0x17 then (40, 2)
        else if c = 0x18 then (80, 1) else (80, 2)) ∧
      img.size = bytes.length ∧ (∀ a, a < bytes.length → bytes[a]? = some (img.store.read a)) ∧
      img.readOnly = !(want && granted) ∧ img.dirty = false)

/-- R51, R52: the fields of the DiskInfo record and of a catalog entry. -/
def Obligations.RecordLayouts : Prop :=
  (∀ (bytes : List Byte) (want granted : Bool) (b : Nat) (img : Image), b ≤ 233 →
    openImage bytes want granted b = .ok img → ∀ f : Nat → Byte, (∀ k, f k = bytes.getD (2048 + b + k) 0) →
    img.diskInfo = {
      diskTypeCode := f 0, declaredFileCount := f 1, freeSectors := f 3 ++ f 2, formatId := f 4,
      password := [f 5, f 6, f 7, f 8, f 9, f 10, f 11, f 12, f 13], deletedFileCount := f 14,
      label := [f 15, f 16, f 17, f 18, f 19, f 20, f 21, f 22] }) ∧
  (∀ b0 b1 b2 b3 b4 b5 b6 b7 b8 b9 b10 b11 b12 b13 b14 b15 : Byte,
    readCatalogEntry [b0, b1, b2, b3, b4, b5, b6, b7, b8, b9, b10, b11, b12, b13, b14, b15] = {
      name := [b0, b1, b2, b3, b4, b5, b6, b7], extension := b8, startParam := b10 ++ b9,
      lengthBytes := b12 ++ b11, sectorsUsed := b13, startSector := b14, startTrack := b15 } ∧
    (entryValid [b0, b1, b2, b3, b4, b5, b6, b7, b8, b9, b10, b11, b12, b13, b14, b15] = true ↔
      b0 ≠ 0x00 ∧ b0 ≠ 0x01))

/-- R53: the catalog of an opened image is the run of valid entries at the start of the image's first 128
entries. -/
def Obligations.CatalogScanStopsAtFirstInvalid : Prop :=
  ∀ (bytes : List Byte) (want granted : Bool) (b : Nat) (img : Image), b ≤ 233 →
    openImage bytes want granted b = .ok img →
    img.catalog = (((List.range 128).map fun k => (bytes.drop (16 * k)).take 16).takeWhile
      fun e => e.getD 0 0 != 0x00 && e.getD 0 0 != 0x01).map readCatalogEntry ∧
    img.catalog.length ≤ 128

/-- R44 to R48, R183: the image operations of the host, and an `ATTACH` that names no open image (log entries 8
and 10). -/
def Obligations.HostImageOperations : Prop :=
  (∀ (s : State) (bytes : List Byte) (want granted : Bool),
    (∀ img, openImage bytes want granted s.params.diskInfoTypeOffset = .ok img →
      execHost (.openImage bytes want granted) s = .next { s with
        images := s.images ++ [some img], reply := none, events := [],
        hostResult := some (.opened s.images.length) }) ∧
    (∀ e, openImage bytes want granted s.params.diskInfoTypeOffset = .error e →
      execHost (.openImage bytes want granted) s = .next { s with
        reply := none, events := [], hostResult := some (.failed e) })) ∧
  (∀ (s : State) (m t sd sec : Nat) (data : Vector Byte 256) (img : Image), s.imageAt m = some img →
    execHost (.flush m) s = .next { s with
      images := s.images.set m (some { img with dirty := img.readOnly && img.dirty }),
      reply := none, events := [], hostResult := some .done } ∧
    ((∀ d, s.slots.get d ≠ some m) → execHost (.close m) s = .next { s with
      images := s.images.set m none, reply := none, events := [], hostResult := some .done }) ∧
    (∀ d, s.slots.get d = some m → execHost (.close m) s = .refused (.closeAttached m)) ∧
    (∀ r, readSector img t sd sec = .ok r → execHost (.readSector m t sd sec) s = .next { s with
      reply := none, events := [], hostResult := some (.sector r) }) ∧
    (∀ e, readSector img t sd sec = .error e → execHost (.readSector m t sd sec) s = .next { s with
      reply := none, events := [], hostResult := some (.failed e) }) ∧
    (∀ img', writeSector img t sd sec data.toList = .ok img' →
      execHost (.writeSector m t sd sec data) s = .next { s with
        images := s.images.set m (some img'), reply := none, events := [], hostResult := some .done }) ∧
    (∀ e, writeSector img t sd sec data.toList = .error e →
      execHost (.writeSector m t sd sec data) s = .next { s with
        reply := none, events := [], hostResult := some (.failed e) })) ∧
  (∀ (s : State) (m t sd sec : Nat) (data : Vector Byte 256), s.imageAt m = none →
    execHost (.flush m) s = .refused (.imageNotOpen m) ∧
    execHost (.close m) s = .refused (.imageNotOpen m) ∧
    execHost (.readSector m t sd sec) s = .refused (.imageNotOpen m) ∧
    execHost (.writeSector m t sd sec data) s = .refused (.imageNotOpen m)) ∧
  (∀ (s : State) (d : Drive) (m : BitVec 32), s.imageAt m.toNat = none →
    exec (.attach d m) s = .next { s with
      slots := s.slots.set d none, reply := none, events := [], hostResult := none })

/-! ### Events and whole-machine rules -/

/-- R154: the five causes of `IRQ`, and no other. -/
def Obligations.IrqCauses : Prop :=
  ∀ (i : Instr) (s t : State), exec i s = .next t →
    (Event.irq ∈ t.events ↔
      (∃ n, i = .tick n ∧ s.st = .busy ∧ s.delay.toNat ≤ n.toNat) ∨
      (readsData i ∧ s.st = .xferRead ∧ s.pos + 1 = s.len) ∨
      (∃ v, dataByteOf i = some v ∧ s.st = .xferWrite ∧ s.pos + 1 = s.len) ∨
      (∃ v, commandByteOf i = some v ∧
        ((commandClass v = .rdSec ∧ ¬s.readSucceeds) ∨ (commandClass v = .wrSec ∧ ¬s.writeOpens))) ∨
      (∃ v, commandByteOf i = some v ∧ commandClass v = .forceInt ∧ v.getLsbD 3 = true)) ∧
    (Event.irq ∈ t.events → t.events = [.irq])

/-- R155: the three causes of `DRQ_EV`, and no other. -/
def Obligations.DrqEventCauses : Prop :=
  ∀ (i : Instr) (s t : State), exec i s = .next t →
    (Event.drqEv ∈ t.events ↔ ∃ v, commandByteOf i = some v ∧
      ((commandClass v = .rdSec ∧ s.readSucceeds) ∨ (commandClass v = .wrSec ∧ s.writeOpens) ∨
        commandClass v = .rdAddr)) ∧
    (Event.drqEv ∈ t.events → t.events = [.drqEv] ∧ t.drq = true)

/-- R154, R173: each command written raises at most one `IRQ` in its whole life, and none is raised without a
command. In any state a command in progress (`st` not `Idle`) is worth the one `IRQ` it may still raise; an
operation of the block raises no more than that and one for the command it writes, an image operation of the
host raises none, and so over any sequence of operations from any state. -/
def Obligations.IrqsNeverExceedCommands : Prop :=
  (∀ (i : Instr) (s t : State), exec i s = .next t →
    t.events.count .irq + (if t.st = .idle then 0 else 1) ≤
      (if (commandByteOf i).isSome then 1 else 0) + (if s.st = .idle then 0 else 1)) ∧
  (∀ (h : HostOp) (s t : State), execHost h s = .next t → t.events = [] ∧ t.st = s.st) ∧
  (∀ (is : List Instr) (s t : State) (out : List (Option Byte × List Event)),
    s.perform is = some (t, out) →
      irqCount out + (if t.st = .idle then 0 else 1) ≤
        (is.filter fun i => (commandByteOf i).isSome).length + (if s.st = .idle then 0 else 1))

/-- R60, R99, R102, R177: an operation of the block changes a byte of a store only as the last data write of a
write transfer, and then only inside the latched sector of the image in the slot selected now. -/
def Obligations.StoreChangesOnlyInLastDataWrite : Prop :=
  ∀ (i : Instr) (s t : State), exec i s = .next t →
    (∀ m a, t.storeByte m a ≠ s.storeByte m a →
      s.st = .xferWrite ∧ s.pos + 1 = s.len ∧ ∃ v, dataByteOf i = some v) ∧
    (s.buf.length = 256 → ∀ m a, t.storeByte m a ≠ s.storeByte m a →
      ∃ img, s.slots.get s.drive = some m ∧ s.imageAt m = some img ∧ img.readOnly = false ∧
        inGeometry img s.ltrk.toNat s.lside.toNat s.lsec.toNat = true ∧
        sectorOffset img s.ltrk.toNat s.lside.toNat s.lsec.toNat ≤ a ∧
        a < sectorOffset img s.ltrk.toNat s.lside.toNat s.lsec.toNat + 256)

/-- R45, R121, R62: an image opened read-only never changes, under any operation of the block and under any
image operation of the host but its close. -/
def Obligations.ReadOnlyImageNeverChanges : Prop :=
  ∀ (s t : State) (m : Nat) (img : Image), s.imageAt m = some img → img.readOnly = true →
    (∀ i, exec i s = .next t → t.imageAt m = some img) ∧
    (∀ h, execHost h s = .next t → h ≠ .close m → t.imageAt m = some img)

/-- R166: the table of all transitions of `st`, with the event of each. -/
def Obligations.TransitionTable : Prop :=
  ∀ (i : Instr) (s t : State), exec i s = .next t →
    (∀ v, commandByteOf i = some v →
      (isTypeOne (commandClass v) = true → t.st = .busy ∧ t.events = []) ∧
      (commandClass v = .rdSec → s.readSucceeds → t.st = .xferRead ∧ t.events = [.drqEv]) ∧
      (commandClass v = .rdSec → ¬s.readSucceeds → t.st = .idle ∧ t.events = [.irq]) ∧
      (commandClass v = .wrSec → s.writeOpens → t.st = .xferWrite ∧ t.events = [.drqEv]) ∧
      (commandClass v = .wrSec → ¬s.writeOpens → t.st = .idle ∧ t.events = [.irq]) ∧
      (commandClass v = .rdAddr → t.st = .xferRead ∧ t.events = [.drqEv]) ∧
      (commandClass v = .forceInt →
        t.st = .idle ∧ t.events = if v.getLsbD 3 then [.irq] else []) ∧
      (commandClass v = .other → t.st = .idle ∧ t.events = [])) ∧
    (∀ n, i = .tick n → s.st = .busy →
      (s.delay.toNat - n.toNat = 0 → t.st = .idle ∧ t.events = [.irq]) ∧
      (s.delay.toNat - n.toNat > 0 → t.st = .busy ∧ t.events = [])) ∧
    (readsData i → s.st = .xferRead →
      (s.pos + 1 = s.len → t.st = .idle ∧ t.events = [.irq]) ∧
      (s.pos + 1 ≠ s.len → t.st = .xferRead ∧ t.events = [])) ∧
    (∀ v, dataByteOf i = some v → s.st = .xferWrite →
      (s.pos + 1 = s.len → t.st = .idle ∧ t.events = [.irq]) ∧
      (s.pos + 1 ≠ s.len → t.st = .xferWrite ∧ t.events = [])) ∧
    (i = .reset → t.st = .idle ∧ t.events = []) ∧
    (commandByteOf i = none → i ≠ .reset → (∀ n, i = .tick n → s.st ≠ .busy) →
      (readsData i → s.st ≠ .xferRead) → (∀ v, dataByteOf i = some v → s.st ≠ .xferWrite) →
      t.st = s.st ∧ t.events = [])

/-- R159, R152, R170: `RNF` and `WP` stay until the next command write or `RESET`; they rise only in a failing transfer
command or a failing commit, which leave the block in `Idle` with nothing open. -/
def Obligations.FailureFlagsLastUntilNextCommand : Prop :=
  ∀ (i : Instr) (s t : State), exec i s = .next t →
    (commandByteOf i = none → i ≠ .reset → (s.rnf = true → t.rnf = true) ∧ (s.wp = true → t.wp = true)) ∧
    ((t.rnf = true ∧ s.rnf = false) ∨ (t.wp = true ∧ s.wp = false) →
      t.st = .idle ∧ t.busy = false ∧ t.drq = false ∧ t.delay = 0 ∧ t.events = [.irq] ∧
      t.images = s.images ∧ t.tr = s.tr ∧ t.sr = s.sr ∧ t.cr = s.cr)

/-! ### Frames -/

/-- What a bus read leaves unchanged: everything, but for what a data read of a read transfer moves. -/
def Obligations.FrameOfBusReads : Prop :=
  ∀ (i : Instr) (s t : State),
    ((∃ d, i = .rdStatus d) ∨ (∃ d, i = .rdTrack d) ∨ (∃ d, i = .rdSector d) ∨ (∃ d, i = .rdData d) ∨
      (∃ d, i = .rdControl d) ∨ (∃ d, i = .rdUnmapped5 d) ∨ (∃ d, i = .rdUnmapped6 d) ∨
      (∃ d, i = .rdUnmapped7 d) ∨ (∃ r, i = .stimRd r)) → exec i s = .next t →
    t.tr = s.tr ∧ t.sr = s.sr ∧ t.cr = s.cr ∧ t.cmdr = s.cmdr ∧ t.rnf = s.rnf ∧ t.wp = s.wp ∧
    t.buf = s.buf ∧ t.len = s.len ∧ t.ltrk = s.ltrk ∧ t.lside = s.lside ∧ t.lsec = s.lsec ∧
    t.slots = s.slots ∧ t.images = s.images ∧ t.params = s.params ∧ t.inputs = s.inputs ∧
    (∀ m a, t.storeByte m a = s.storeByte m a) ∧
    (¬(readsData i ∧ s.st = .xferRead) →
      t.dr = s.dr ∧ t.pos = s.pos ∧ t.busy = s.busy ∧ t.drq = s.drq ∧ t.st = s.st ∧ t.delay = s.delay) ∧
    (s.pos + 1 ≠ s.len → t.busy = s.busy ∧ t.drq = s.drq ∧ t.st = s.st ∧ t.delay = s.delay)

/-- What a command write leaves unchanged: `SR`, `DR`, `CR`, the slots and every image; `TR` but for the commands
that move the head, the latch but for an opening Write Sector, the buffer but for a command that opens
a transfer. -/
def Obligations.FrameOfCommands : Prop :=
  ∀ (i : Instr) (v : Byte) (s t : State), commandByteOf i = some v → exec i s = .next t →
    t.sr = s.sr ∧ t.dr = s.dr ∧ t.cr = s.cr ∧ t.slots = s.slots ∧ t.images = s.images ∧
    t.params = s.params ∧ t.inputs = s.inputs ∧ (∀ m a, t.storeByte m a = s.storeByte m a) ∧
    (commandClass v ≠ .restore → commandClass v ≠ .seek → commandClass v ≠ .stepIn →
      commandClass v ≠ .stepOut → t.tr = s.tr) ∧
    (¬(commandClass v = .wrSec ∧ s.writeOpens) →
      t.ltrk = s.ltrk ∧ t.lside = s.lside ∧ t.lsec = s.lsec) ∧
    (t.drq = false → t.buf = s.buf)

/-- What a register write other than `COMMAND` leaves unchanged; the bytes of memory a data write may change
are those of `Obligations.CommitStoresTheLatchedSector`. -/
def Obligations.FrameOfRegisterWrites : Prop :=
  ∀ (i : Instr) (v : Byte) (s t : State), exec i s = .next t →
    (i = .wrTrack v ∨ i = .stimWr 1 v →
      t = { s with tr := v, reply := none, events := [], hostResult := none } ∧
      ∀ m a, t.storeByte m a = s.storeByte m a) ∧
    (i = .wrSector v ∨ i = .stimWr 2 v →
      t = { s with sr := v, reply := none, events := [], hostResult := none } ∧
      ∀ m a, t.storeByte m a = s.storeByte m a) ∧
    (i = .wrControl v ∨ i = .stimWr 4 v →
      t = { s with cr := v, reply := none, events := [], hostResult := none } ∧
      ∀ m a, t.storeByte m a = s.storeByte m a) ∧
    (dataByteOf i = some v →
      t.dr = v ∧ t.tr = s.tr ∧ t.sr = s.sr ∧ t.cr = s.cr ∧ t.cmdr = s.cmdr ∧ t.len = s.len ∧
      t.ltrk = s.ltrk ∧ t.lside = s.lside ∧ t.lsec = s.lsec ∧ t.slots = s.slots ∧
      t.params = s.params ∧ t.inputs = s.inputs ∧
      (¬(s.st = .xferWrite ∧ s.pos + 1 = s.len) →
        t.busy = s.busy ∧ t.drq = s.drq ∧ t.rnf = s.rnf ∧ t.wp = s.wp ∧ t.st = s.st ∧
        t.delay = s.delay ∧ t.images = s.images ∧ ∀ m a, t.storeByte m a = s.storeByte m a) ∧
      (s.st ≠ .xferWrite → t.buf = s.buf ∧ t.pos = s.pos))

/-- What `TICK`, `ATTACH`, `DETACH` and `RESET` leave unchanged. -/
def Obligations.FrameOfHostPort : Prop :=
  ∀ (i : Instr) (s t : State), exec i s = .next t →
    ((∃ n, i = .tick n) →
      t.tr = s.tr ∧ t.sr = s.sr ∧ t.dr = s.dr ∧ t.cr = s.cr ∧ t.cmdr = s.cmdr ∧ t.rnf = s.rnf ∧
      t.wp = s.wp ∧ t.buf = s.buf ∧ t.pos = s.pos ∧ t.len = s.len ∧ t.ltrk = s.ltrk ∧
      t.lside = s.lside ∧ t.lsec = s.lsec ∧ t.slots = s.slots ∧ t.images = s.images ∧
      t.params = s.params ∧ t.inputs = s.inputs ∧
      (s.st ≠ .busy → t.st = s.st ∧ t.busy = s.busy ∧ t.drq = s.drq) ∧
      ∀ m a, t.storeByte m a = s.storeByte m a) ∧
    ((∃ d m, i = .attach d m) ∨ (∃ d, i = .detach d) →
      t = { s with slots := t.slots, reply := none, events := [], hostResult := none } ∧
      ∀ m a, t.storeByte m a = s.storeByte m a) ∧
    (i = .reset →
      t.slots = s.slots ∧ t.images = s.images ∧ t.buf = s.buf ∧ t.ltrk = s.ltrk ∧ t.lside = s.lside ∧
      t.lsec = s.lsec ∧ t.cmdr = s.cmdr ∧ t.params = s.params ∧ t.inputs = s.inputs ∧
      ∀ m a, t.storeByte m a = s.storeByte m a)

/-- R82, and the command bytes rule R81 gives: what the lines of the assembly language stand for. -/
def Obligations.AssemblyLinesExpand : Prop :=
  (∀ p : Params,
    expandLine p (.cmd .restore 0) = [.stimWr 0 0x00] ∧ expandLine p (.cmd .seek 0) = [.stimWr 0 0x10] ∧
    expandLine p (.cmd .step 0) = [.stimWr 0 0x20] ∧ expandLine p (.cmd .stepIn 0) = [.stimWr 0 0x40] ∧
    expandLine p (.cmd .stepOut 0) = [.stimWr 0 0x60] ∧ expandLine p (.cmd .rdSec 0) = [.stimWr 0 0x80] ∧
    expandLine p (.cmd .wrSec 0) = [.stimWr 0 0xA0] ∧ expandLine p (.cmd .rdAddr 0) = [.stimWr 0 0xC0] ∧
    expandLine p (.cmd .forceInt 0) = [.stimWr 0 0xD0] ∧
    expandLine p (.cmd .forceInt 8) = [.stimWr 0 0xD8]) ∧
  (∀ (p : Params) (t n k b : Nat), t < 256 → n < 256 → b < 256 → ∃ vt vn vb : Byte,
    vt.toNat = t ∧ vn.toNat = n ∧ vb.toNat = b ∧
    expandLine p (.seekTo t) = [.stimWr 3 vt, .stimWr 0 0x10] ∧
    expandLine p (.setAddr t n) = [.stimWr 1 vt, .stimWr 2 vn] ∧
    expandLine p (.readN k) = List.replicate k (.stimRd 3) ∧
    expandLine p (.writeN k b) = List.replicate k (.stimWr 3 vb) ∧
    expandLine p .wait = [.tick 0xFFFFFFFF]) ∧
  (∀ (p : Params) (d s : Nat), d < 4 → s < 2 → ∃ v : Byte,
    expandLine p (.select d s) = [.stimWr 4 v] ∧ v.toNat % 4 = d ∧
    v.extractLsb' 4 1 = BitVec.ofNat 1 s ^^^ p.sideInvert ∧ v &&& 0xEC = 0)
end

