-- ==== Sys2Proof/Laws/Encoding.lean ====
section
/-! SUPPORT. The fields of an encoded word, and which byte a word writes to `COMMAND` or `DATA`. -/

namespace Sys2Proof

theorem extract_low {v w : Nat} (a : BitVec v) (b : BitVec w) : (a ++ b).extractLsb' 0 w = b :=
  BitVec.extractLsb'_append_eq_right

theorem extract_high {v w : Nat} (a : BitVec v) (b : BitVec w) : (a ++ b).extractLsb' w v = a :=
  BitVec.extractLsb'_append_eq_left

/-! ### Bus transactions -/

@[simp] theorem decodeBus_append (k : BitVec 4) (d : Byte) : decodeBus (k ++ d) = busRow k d := by
  unfold decodeBus
  rw [show (k ++ d : BitVec 12).extractLsb' 8 4 = k from extract_high k d,
    show (k ++ d : BitVec 12).extractLsb' 0 8 = d from extract_low k d]

/-- Every transaction is a select nibble and a byte. -/
theorem bus_split (w : BitVec 12) : w.extractLsb' 8 4 ++ w.extractLsb' 0 8 = w :=
  BitVec.extractLsb'_append_extractLsb' (w := 4) (len := 8) (x := w)

theorem encode_busRow (k : BitVec 4) (d : Byte) : encode (busRow k d) = .bus (k ++ d) := by
  have hk : k = BitVec.ofNat 4 k.toNat := by simp
  have hl := k.isLt
  generalize k.toNat = n at *
  subst hk
  interval_cases n <;> rfl

/-! ### Stimulus words -/

@[simp] theorem decodeStimulus_append (k s : BitVec 4) (a : BitVec 32) :
    decodeStimulus (k ++ s ++ a) = stimulusRow k s a := by
  unfold decodeStimulus
  rw [show (k ++ s ++ a : BitVec 40).extractLsb' 36 4 = k from
      (BitVec.extractLsb'_append_eq_of_le (by omega)).trans (extract_high k s),
    show (k ++ s ++ a : BitVec 40).extractLsb' 32 4 = s from
      (BitVec.extractLsb'_append_eq_of_le (by omega)).trans (extract_low k s),
    show (k ++ s ++ a : BitVec 40).extractLsb' 0 32 = a from extract_low _ a]

/-- Every 40-bit word is a kind, a select and an argument. -/
theorem stimulus_split (w : BitVec 40) :
    w.extractLsb' 36 4 ++ w.extractLsb' 32 4 ++ w.extractLsb' 0 32 = w := by
  rw [show w.extractLsb' 36 4 ++ w.extractLsb' 32 4 = w.extractLsb' 32 8 from
    BitVec.extractLsb'_append_extractLsb'_eq_extractLsb' (by omega)]
  exact BitVec.extractLsb'_append_extractLsb' (w := 8) (len := 32) (x := w)

/-- The select field of a register stimulus. -/
theorem select_fields (r : Select) :
    (0#1 ++ r : BitVec 4).getLsbD 3 = false ∧ (0#1 ++ r : BitVec 4).extractLsb' 0 3 = r := by
  revert r; decide

/-- The select field of a drive stimulus. -/
theorem drive_fields (d : Drive) :
    (0#2 ++ d : BitVec 4).extractLsb' 2 2 = 0 ∧ (0#2 ++ d : BitVec 4).extractLsb' 0 2 = d := by
  revert d; decide

/-- The argument field of a write stimulus. -/
theorem byte_fields (v : Byte) :
    (0#24 ++ v : BitVec 32).extractLsb' 8 24 = 0 ∧ (0#24 ++ v : BitVec 32).extractLsb' 0 8 = v :=
  ⟨extract_high _ v, extract_low _ v⟩

theorem select_of_fields (s : BitVec 4) (h : s.getLsbD 3 = false) : 0#1 ++ s.extractLsb' 0 3 = s := by
  revert s; decide

theorem drive_of_fields (s : BitVec 4) (h : s.extractLsb' 2 2 = 0) : 0#2 ++ s.extractLsb' 0 2 = s := by
  revert s; decide

theorem byte_of_fields (a : BitVec 32) (h : a.extractLsb' 8 24 = 0) : 0#24 ++ a.extractLsb' 0 8 = a := by
  have := BitVec.extractLsb'_append_extractLsb' (w := 24) (len := 8) (x := a)
  rwa [h] at this

/-! ### Command bytes -/

theorem encode_decodeCommand (v : Byte) : encode (decodeCommand v) = .command v := by
  revert v; decide +kernel

/-- The classes of the bytes the encoder makes. -/
theorem commandClass_append :
    (∀ x : BitVec 4, commandClass (0x0#4 ++ x) = .restore) ∧
    (∀ x : BitVec 4, commandClass (0x1#4 ++ x) = .seek) ∧
    (∀ x : BitVec 5, commandClass (0b001#3 ++ x) = .step) ∧
    (∀ x : BitVec 5, commandClass (0b010#3 ++ x) = .stepIn) ∧
    (∀ x : BitVec 5, commandClass (0b011#3 ++ x) = .stepOut) ∧
    (∀ x : BitVec 5, commandClass (0b100#3 ++ x) = .rdSec) ∧
    (∀ x : BitVec 5, commandClass (0b101#3 ++ x) = .wrSec) ∧
    (∀ x : BitVec 4, commandClass (0xC#4 ++ x) = .rdAddr) ∧
    (∀ (i : Bool) (x : BitVec 3), commandClass (0xD#4 ++ (BitVec.ofBool i ++ x)) = .forceInt) ∧
    (∀ x : BitVec 5, commandClass (0b111#3 ++ x) = .other) := by
  decide

theorem immediateBit_append :
    ∀ (i : Bool) (x : BitVec 3), Machine.immediateBit (0xD#4 ++ (BitVec.ofBool i ++ x)) = i := by
  decide

namespace Machine

/-! ### The byte written to `COMMAND` or `DATA` -/

theorem commandByteOf_bus (k : BitVec 4) (d : Byte) :
    commandByteOf (busRow k d) = if k = 0x8 then some d else none := by
  unfold commandByteOf
  rw [encode_busRow]
  simp only
  rw [show (k ++ d : BitVec 12).extractLsb' 8 4 = k from extract_high k d,
    show (k ++ d : BitVec 12).extractLsb' 0 8 = d from extract_low k d]

theorem dataByteOf_bus (k : BitVec 4) (d : Byte) :
    dataByteOf (busRow k d) = if k = 0xB then some d else none := by
  unfold dataByteOf
  rw [encode_busRow]
  simp only
  rw [show (k ++ d : BitVec 12).extractLsb' 8 4 = k from extract_high k d,
    show (k ++ d : BitVec 12).extractLsb' 0 8 = d from extract_low k d]

/-- `KIND` and `SEL` together, and the low byte of `ARG`. -/
theorem stimulus_head (k s : BitVec 4) (a : BitVec 32) :
    (k ++ s ++ a : BitVec 40).extractLsb' 32 8 = k ++ s ∧
      (k ++ s ++ a : BitVec 40).extractLsb' 0 8 = a.extractLsb' 0 8 :=
  ⟨extract_high (k ++ s) a, BitVec.extractLsb'_append_eq_of_add_le (by omega)⟩

@[simp] theorem commandByteOf_wrCmd (v : Byte) : commandByteOf (.wrCmd v) = some v :=
  (commandByteOf_bus 0x8 v).trans (by simp)

@[simp] theorem dataByteOf_wrData (v : Byte) : dataByteOf (.wrData v) = some v :=
  (dataByteOf_bus 0xB v).trans (by simp)

@[simp] theorem commandByteOf_stimWr (r : Select) (v : Byte) :
    commandByteOf (.stimWr r v) = if r = 0 then some v else none := by
  unfold commandByteOf encode
  simp only
  rw [(stimulus_head _ _ _).1, (stimulus_head _ _ _).2, (byte_fields v).2]
  have : ∀ r : Select, (0x1#4 ++ (0#1 ++ r) : BitVec 8) = 16#8 ↔ r = 0 := by decide
  simp [this]

@[simp] theorem dataByteOf_stimWr (r : Select) (v : Byte) :
    dataByteOf (.stimWr r v) = if r = 3 then some v else none := by
  unfold dataByteOf encode
  simp only
  rw [(stimulus_head _ _ _).1, (stimulus_head _ _ _).2, (byte_fields v).2]
  have : ∀ r : Select, (0x1#4 ++ (0#1 ++ r) : BitVec 8) = 19#8 ↔ r = 3 := by decide
  simp [this]

end Machine

end Sys2Proof
end

