-- ==== Sys2Proof/Laws/Memory.lean ====
section
/-! SUPPORT. The laws of an image's store: read after write, everything else unchanged, and the canonical form
kept by every operation. -/

namespace Sys2Proof.Machine

/-! ### The canonical form, as a strictly rising list -/

/-- The form said with `List.Pairwise`: strictly rising addresses, no zero byte. -/
theorem Memory.wf_iff (m : Memory) :
    m.wf = true ↔ m.Pairwise (fun c d => c.1 < d.1) ∧ ∀ c ∈ m, c.2 ≠ Memory.unlisted := by
  fun_induction Memory.wf m with
  | case1 => simp
  | case2 a v => simp
  | case3 a v b w rest ih =>
    simp only [Bool.and_eq_true, bne_iff_ne, ne_eq, decide_eq_true_eq, ih, List.pairwise_cons,
      List.mem_cons, forall_eq_or_imp]
    constructor
    · rintro ⟨⟨hv, hab⟩, ⟨hb, hrest⟩, hw, hall⟩
      exact ⟨⟨⟨hab, fun c hc => Nat.lt_trans hab (hb c hc)⟩, hb, hrest⟩, hv, hw, hall⟩
    · rintro ⟨⟨⟨hab, _⟩, hb, hrest⟩, hv, hw, hall⟩
      exact ⟨⟨hv, hab⟩, ⟨hb, hrest⟩, hw, hall⟩

theorem Memory.cellsOf_range (bytes : List Byte) (off : Nat) :
    ∀ c ∈ Memory.cellsOf off bytes, off ≤ c.1 ∧ c.1 < off + bytes.length ∧ c.2 ≠ Memory.unlisted := by
  induction bytes generalizing off with
  | nil => simp [Memory.cellsOf]
  | cons v rest ih =>
    intro c hc
    simp only [Memory.cellsOf] at hc
    split at hc
    · have := ih (off + 1) c hc
      exact ⟨by omega, by simp only [List.length_cons]; omega, this.2.2⟩
    · next hv =>
      rcases List.mem_cons.1 hc with rfl | hc
      · exact ⟨Nat.le_refl _, by simp, hv⟩
      · have := ih (off + 1) c hc
        exact ⟨by omega, by simp only [List.length_cons]; omega, this.2.2⟩

theorem Memory.cellsOf_sorted (bytes : List Byte) (off : Nat) :
    (Memory.cellsOf off bytes).Pairwise fun c d => c.1 < d.1 := by
  induction bytes generalizing off with
  | nil => simp [Memory.cellsOf]
  | cons v rest ih =>
    simp only [Memory.cellsOf]
    split
    · exact ih _
    · refine List.pairwise_cons.2 ⟨fun c hc => ?_, ih _⟩
      have := Memory.cellsOf_range rest (off + 1) c hc
      show off < c.1
      omega

/-- The cells of a list of bytes are in canonical form. -/
theorem Memory.wf_cellsOf (bytes : List Byte) (off : Nat) : (Memory.cellsOf off bytes).wf = true :=
  (Memory.wf_iff _).2 ⟨Memory.cellsOf_sorted bytes off, fun c hc => (Memory.cellsOf_range bytes off c hc).2.2⟩

/-- The opening bytes of an image are in canonical form. -/
theorem Memory.wf_ofBytes (bytes : List Byte) : (Memory.ofBytes bytes).wf = true :=
  Memory.wf_cellsOf bytes 0

/-- Writing a range keeps the canonical form. -/
theorem Memory.wf_writeRange (m : Memory) (off : Nat) (bytes : List Byte) (h : m.wf = true) :
    (m.writeRange off bytes).wf = true := by
  rw [Memory.wf_iff] at h ⊢
  obtain ⟨hs, hz⟩ := h
  have hlow : ∀ c ∈ m.below off, c.1 < off := fun c hc => by
    simpa [Memory.below] using (List.mem_filter.1 hc).2
  have hhigh : ∀ c ∈ m.atOrAbove (off + bytes.length), off + bytes.length ≤ c.1 := fun c hc => by
    simpa [Memory.atOrAbove] using (List.mem_filter.1 hc).2
  have hmid := Memory.cellsOf_range bytes off
  constructor
  · refine List.pairwise_append.2 ⟨hs.filter _, List.pairwise_append.2
      ⟨Memory.cellsOf_sorted bytes off, hs.filter _, fun c hc d hd => ?_⟩, fun c hc d hd => ?_⟩
    · have := hmid c hc
      have := hhigh d hd
      omega
    · have h1 := hlow c hc
      rcases List.mem_append.1 hd with hd | hd
      · have := hmid d hd
        omega
      · have := hhigh d hd
        omega
  · intro c hc
    rcases List.mem_append.1 hc with hc | hc
    · exact hz c (List.mem_filter.1 hc).1
    · rcases List.mem_append.1 hc with hc | hc
      · exact (hmid c hc).2.2
      · exact hz c (List.mem_filter.1 hc).1

/-! ### Listed addresses lie inside the store -/

theorem Memory.within_iff (m : Memory) (n : Nat) : m.within n = true ↔ ∀ c ∈ m, c.1 < n := by
  simp [Memory.within]

theorem Memory.within_ofBytes (bytes : List Byte) : (Memory.ofBytes bytes).within bytes.length = true :=
  (Memory.within_iff _ _).2 fun c hc => by
    have := Memory.cellsOf_range bytes 0 c hc
    omega

/-- A range written inside the store leaves every listed address inside it. -/
theorem Memory.within_writeRange (m : Memory) (n off : Nat) (bytes : List Byte)
    (h : m.within n = true) (hr : off + bytes.length ≤ n) : (m.writeRange off bytes).within n = true := by
  rw [Memory.within_iff] at h ⊢
  intro c hc
  rcases List.mem_append.1 hc with hc | hc
  · exact h c (List.mem_filter.1 hc).1
  · rcases List.mem_append.1 hc with hc | hc
    · have := Memory.cellsOf_range bytes off c hc
      omega
    · exact h c (List.mem_filter.1 hc).1

/-! ### Reads -/

theorem Memory.read_of_not_listed (m : Memory) (a : Nat) (h : ∀ c ∈ m, c.1 ≠ a) :
    m.read a = Memory.unlisted := by
  induction m with
  | nil => rfl
  | cons c rest ih =>
    obtain ⟨b, v⟩ := c
    have hb : b ≠ a := h (b, v) (by simp)
    simp only [Memory.read, hb, if_false]
    exact ih fun c hc => h c (List.mem_cons_of_mem _ hc)

theorem Memory.read_filter (m : Memory) (a : Nat) (p : Host.Cell → Bool) (h : ∀ v, p (a, v) = true) :
    Memory.read (m.filter p) a = m.read a := by
  induction m with
  | nil => rfl
  | cons c rest ih =>
    obtain ⟨b, v⟩ := c
    by_cases hb : b = a
    · subst hb; simp [Memory.read, h]
    · by_cases hp : p (b, v) = true
      · simp [Memory.read, hp, hb, ih]
      · simp [Memory.read, hp, hb, ih]

theorem Memory.read_append_listed (m k : Memory) (a : Nat) (h : ∀ c ∈ k, c.1 ≠ a) :
    Memory.read (m ++ k) a = m.read a := by
  induction m with
  | nil => simpa [Memory.read] using Memory.read_of_not_listed k a h
  | cons c rest ih =>
    obtain ⟨b, v⟩ := c
    simp only [List.cons_append, Memory.read, ih]

theorem Memory.read_append_right (m k : Memory) (a : Nat) (h : ∀ c ∈ m, c.1 ≠ a) :
    Memory.read (m ++ k) a = k.read a := by
  induction m with
  | nil => rfl
  | cons c rest ih =>
    obtain ⟨b, v⟩ := c
    have hb : b ≠ a := h (b, v) (by simp)
    simp only [List.cons_append, Memory.read, hb, if_false]
    exact ih fun c hc => h c (List.mem_cons_of_mem _ hc)

theorem Memory.read_cellsOf (bytes : List Byte) (off i : Nat) (h : i < bytes.length) :
    (Memory.cellsOf off bytes).read (off + i) = bytes[i] := by
  induction bytes generalizing off i with
  | nil => simp at h
  | cons v rest ih =>
    cases i with
    | zero =>
      simp only [Memory.cellsOf, Nat.add_zero, List.getElem_cons_zero]
      split
      · next hv =>
        rw [hv]
        refine Memory.read_of_not_listed _ _ fun c hc => ?_
        have := Memory.cellsOf_range rest (off + 1) c hc
        omega
      · simp [Memory.read]
    | succ j =>
      have hj : j < rest.length := by simpa using h
      have e := ih (off + 1) j hj
      have heq : off + 1 + j = off + (j + 1) := by omega
      rw [heq] at e
      simp only [Memory.cellsOf, List.getElem_cons_succ]
      split
      · exact e
      · have hne : ¬ off = off + (j + 1) := by omega
        simp only [Memory.read, hne, if_false]
        exact e

/-- Read after write, at every address: inside the written range the byte written, elsewhere the old one. -/
theorem Memory.read_writeRange (m : Memory) (off : Nat) (bytes : List Byte) (a : Nat) :
    (m.writeRange off bytes).read a =
      if h : off ≤ a ∧ a < off + bytes.length then bytes[a - off]'(by omega) else m.read a := by
  have hlow : ∀ c ∈ m.below off, c.1 < off := fun c hc => by
    simpa [Memory.below] using (List.mem_filter.1 hc).2
  have hhigh : ∀ c ∈ m.atOrAbove (off + bytes.length), off + bytes.length ≤ c.1 := fun c hc => by
    simpa [Memory.atOrAbove] using (List.mem_filter.1 hc).2
  have hmid := Memory.cellsOf_range bytes off
  unfold Memory.writeRange
  by_cases h1 : a < off
  · have hn : ¬ (off ≤ a ∧ a < off + bytes.length) := by omega
    rw [dif_neg hn, Memory.read_append_listed, Memory.below, Memory.read_filter]
    · simpa using h1
    · intro c hc
      rcases List.mem_append.1 hc with hc | hc
      · have := hmid c hc; omega
      · have := hhigh c hc; omega
  · rw [Memory.read_append_right _ _ _ (fun c hc => by have := hlow c hc; omega)]
    by_cases h2 : a < off + bytes.length
    · rw [dif_pos ⟨by omega, h2⟩, Memory.read_append_listed _ _ _ (fun c hc => by have := hhigh c hc; omega)]
      have e := Memory.read_cellsOf bytes off (a - off) (by omega)
      rwa [show off + (a - off) = a by omega] at e
    · rw [dif_neg (by omega), Memory.read_append_right _ _ _ (fun c hc => by have := hmid c hc; omega),
        Memory.atOrAbove, Memory.read_filter]
      simp; omega

/-- The bytes of a store opened from a list are the bytes of the list. -/
theorem Memory.read_ofBytes (bytes : List Byte) (a : Nat) (h : a < bytes.length) :
    (Memory.ofBytes bytes).read a = bytes[a] := by
  have := Memory.read_cellsOf bytes 0 a h
  simpa [Memory.ofBytes] using this

@[simp] theorem Memory.length_readRange (m : Memory) (off n : Nat) : (m.readRange off n).length = n := by
  induction n generalizing off with
  | zero => rfl
  | succ n ih => simp [Memory.readRange, ih]

@[simp] theorem Memory.getElem_readRange (m : Memory) (off n i : Nat) (h : i < (m.readRange off n).length) :
    (m.readRange off n)[i] = m.read (off + i) := by
  induction n generalizing off i with
  | zero => simp [Memory.readRange] at h
  | succ n ih =>
    cases i with
    | zero => simp [Memory.readRange]
    | succ j =>
      simp only [Memory.readRange, List.getElem_cons_succ]
      rw [ih]
      congr 1
      omega

/-- A range read where it was just written gives the bytes written. -/
theorem Memory.readRange_writeRange_same (m : Memory) (off : Nat) (bytes : List Byte) :
    (m.writeRange off bytes).readRange off bytes.length = bytes := by
  refine List.ext_getElem (by simp) fun i h1 h2 => ?_
  rw [Memory.getElem_readRange, Memory.read_writeRange, dif_pos ⟨by omega, by omega⟩]
  congr 1
  omega

/-- A range read apart from where one was written is unchanged. -/
theorem Memory.readRange_writeRange_apart (m : Memory) (off : Nat) (bytes : List Byte) (at' n : Nat)
    (h : at' + n ≤ off ∨ off + bytes.length ≤ at') :
    (m.writeRange off bytes).readRange at' n = m.readRange at' n := by
  refine List.ext_getElem (by simp) fun i h1 h2 => ?_
  have hi : i < n := by simpa using h2
  rw [Memory.getElem_readRange, Memory.getElem_readRange, Memory.read_writeRange, dif_neg (by omega)]

end Sys2Proof.Machine
end

