-- ==== Sys2Proof/Laws/Image.lean ====
section
/-! SUPPORT. The laws of the sector image engine: when a sector access succeeds and what it then does, the
geometry an open image has, and the catalog scan in one piece. -/

namespace Sys2Proof.Machine

/-- The addressing function with the constants written out (R43). -/
theorem sectorOffset_eq (img : Image) (t s sec : Nat) :
    sectorOffset img t s sec = t * img.sides * 4096 + s * 4096 + sec * 256 := rfl

theorem inGeometry_iff (img : Image) (t s sec : Nat) :
    inGeometry img t s sec = true ↔ t < img.tracks ∧ s < img.sides ∧ sec < 16 := by
  simp [inGeometry, and_assoc]

/-- A sector read succeeds exactly on a sector of the geometry that the store holds. -/
theorem readSector_ok (img : Image) (t s sec : Nat) (r : List Byte) :
    readSector img t s sec = .ok r ↔
      inGeometry img t s sec = true ∧ sectorOffset img t s sec + 256 ≤ img.size ∧
        r = img.store.readRange (sectorOffset img t s sec) 256 := by
  unfold readSector
  split
  · next hg =>
    split
    · next hs => simp [hg, hs, eq_comm]
    · next hs => simp [hs]
  · next hg => simp [hg]

theorem readSector_length {img : Image} {t s sec : Nat} {r : List Byte} (h : readSector img t s sec = .ok r) :
    r.length = 256 := by
  obtain ⟨_, _, rfl⟩ := (readSector_ok img t s sec r).1 h
  simp

/-- A sector write succeeds exactly on a writable image, on a sector of the geometry that the store holds. -/
theorem writeSector_ok (img : Image) (t s sec : Nat) (data : List Byte) (img' : Image) :
    writeSector img t s sec data = .ok img' ↔
      img.readOnly = false ∧ inGeometry img t s sec = true ∧ sectorOffset img t s sec + 256 ≤ img.size ∧
        img' = { img with store := img.store.writeRange (sectorOffset img t s sec) data, dirty := true } := by
  unfold writeSector
  by_cases hr : img.readOnly = true
  · simp [hr]
  · have hr' : img.readOnly = false := Bool.eq_false_iff.2 hr
    by_cases hg : inGeometry img t s sec = true
    · by_cases hs : sectorOffset img t s sec + 256 ≤ img.size
      · simp only [hr', hg, hs, Bool.false_eq_true, if_false, if_true, Except.ok.injEq, true_and]
        exact eq_comm
      · simp [hr, hg, hs]
    · simp [hr, hg]

/-- The three ways a sector write fails, in the order of its tests. -/
theorem writeSector_error (img : Image) (t s sec : Nat) (data : List Byte) (e : ImageError) :
    writeSector img t s sec data = .error e ↔
      (img.readOnly = true ∧ e = .readOnly) ∨
      (img.readOnly = false ∧ inGeometry img t s sec = false ∧ e = .addressOutOfRange) ∨
      (img.readOnly = false ∧ inGeometry img t s sec = true ∧
        img.size < sectorOffset img t s sec + 256 ∧ e = .ioFault) := by
  unfold writeSector
  by_cases hr : img.readOnly = true
  · simp only [hr, if_true, Except.error.injEq, true_and, Bool.true_eq_false, false_and, or_false]
    exact eq_comm
  · have hr' : img.readOnly = false := Bool.eq_false_iff.2 hr
    by_cases hg : inGeometry img t s sec = true
    · by_cases hs : sectorOffset img t s sec + 256 ≤ img.size
      · simp [hr', hg, hs, Nat.not_lt.2 hs]
      · simp [hr', hg, hs, Nat.lt_of_not_le hs]
        exact eq_comm
    · have hg' : inGeometry img t s sec = false := Bool.eq_false_iff.2 hg
      simp only [hr', hg', Bool.false_eq_true, if_false, Except.error.injEq, false_and, true_and, false_or, or_false]
      exact eq_comm

/-- Two sectors of one geometry do not overlap. -/
theorem sectorOffset_apart (img : Image) {t s sec t' s' sec' : Nat}
    (hg : inGeometry img t s sec = true) (hg' : inGeometry img t' s' sec' = true)
    (hne : (t, s, sec) ≠ (t', s', sec')) :
    sectorOffset img t s sec + 256 ≤ sectorOffset img t' s' sec' ∨
      sectorOffset img t' s' sec' + 256 ≤ sectorOffset img t s sec := by
  rw [inGeometry_iff] at hg hg'
  have key : t ≠ t' ∨ s ≠ s' ∨ sec ≠ sec' := by
    by_contra c
    simp only [not_or, not_not] at c
    exact hne (by rw [c.1, c.2.1, c.2.2])
  simp only [sectorOffset_eq]
  rcases Nat.lt_trichotomy t t' with h | h | h
  · left
    have h1 : (t + 1) * img.sides ≤ t' * img.sides := Nat.mul_le_mul_right _ h
    have h2 : (t + 1) * img.sides = t * img.sides + img.sides := Nat.succ_mul _ _
    omega
  · subst h
    omega
  · right
    have h1 : (t' + 1) * img.sides ≤ t * img.sides := Nat.mul_le_mul_right _ h
    have h2 : (t' + 1) * img.sides = t' * img.sides + img.sides := Nat.succ_mul _ _
    omega

/-- A successful write to an image keeps it sound. -/
theorem Image.Sound.writeSector {img img' : Image} {t s sec : Nat} {data : List Byte} (h : img.Sound)
    (hd : data.length = 256) (hw : Machine.writeSector img t s sec data = .ok img') : img'.Sound := by
  obtain ⟨_, _, hs, rfl⟩ := (writeSector_ok img t s sec data img').1 hw
  obtain ⟨h1, h2, h3, h4, h5⟩ := h
  exact ⟨h1, h2, Memory.wf_writeRange _ _ _ h3, Memory.within_writeRange _ _ _ _ h4 (by rw [hd]; exact hs), h5⟩

theorem Image.Sound.flushImage {img : Image} (h : img.Sound) : (Machine.flushImage img).Sound := by
  unfold Machine.flushImage
  split <;> exact h

/-! ### Open -/

theorem confirmGeometry_cases (code : Byte) :
    confirmGeometry code (80, 2) = (80, 2) ∨ confirmGeometry code (80, 2) = (40, 2) ∨
      confirmGeometry code (80, 2) = (80, 1) := by
  unfold confirmGeometry
  split
  · simp
  · split
    · simp
    · split <;> simp

/-- The scan of one sector in one piece: the valid entries up to the first invalid one, no more than the
catalog has room for; the scan goes on exactly when all entries were valid and there is still room. -/
theorem scanEntries_eq (es : List (List Byte)) (acc : List CatalogEntry) (h : acc.length < 128) :
    (scanEntries acc es).1 = acc ++ ((es.takeWhile entryValid).take (128 - acc.length)).map readCatalogEntry ∧
      ((scanEntries acc es).2 = false ↔ (es.takeWhile entryValid = es ∧ acc.length + es.length < 128)) := by
  induction es generalizing acc with
  | nil => simp [scanEntries, h]
  | cons e rest ih =>
    by_cases he : entryValid e = true
    · by_cases hc : acc.length + 1 = 128
      · have h1 : 128 - acc.length = 1 := by omega
        simp only [scanEntries, he, hc, if_true, List.takeWhile_cons, h1]
        refine ⟨by simp, by simp; omega⟩
      · have hl : (acc ++ [readCatalogEntry e]).length < 128 := by simp; omega
        obtain ⟨i1, i2⟩ := ih (acc ++ [readCatalogEntry e]) hl
        have h1 : 128 - acc.length = (128 - (acc ++ [readCatalogEntry e]).length) + 1 := by simp; omega
        simp only [scanEntries, he, hc, if_true, if_false, List.takeWhile_cons, i2, i1, h1, List.take_succ_cons,
          List.map_cons, List.append_assoc, List.singleton_append, true_and]
        simp only [List.length_append, List.length_cons, List.length_nil, List.cons.injEq, true_and]
        exact and_congr_right fun _ => by omega
    · simp [scanEntries, he]

theorem scanEntries_length (es : List (List Byte)) (acc : List CatalogEntry) (h : acc.length < 128) :
    (scanEntries acc es).1.length ≤ 128 := by
  rw [(scanEntries_eq es acc h).1]
  simp
  omega

/-- A catalog never holds more than 128 entries (R53). -/
theorem scanSectors_length (img : Image) (secs : List Nat) (acc : List CatalogEntry) (h : acc.length < 128) :
    (scanSectors img acc secs).length ≤ 128 := by
  induction secs generalizing acc with
  | nil => simpa [scanSectors] using Nat.le_of_lt h
  | cons sec rest ih =>
    simp only [scanSectors]
    split
    · exact Nat.le_of_lt h
    · next r _ =>
      have hl := scanEntries_length (sectorEntries r) acc h
      split
      · next acc' hs => simpa [hs] using hl
      · next acc' hs =>
        refine ih acc' ?_
        obtain ⟨e1, e2⟩ := scanEntries_eq (sectorEntries r) acc h
        rw [hs] at e1 e2
        simp only [true_iff] at e2
        simp only at e1
        rw [e1, e2.1]
        simp
        omega

/-- The byte a range read takes from a store opened from a list. -/
theorem getD_readRange_ofBytes (bytes : List Byte) (off n k : Nat) (hk : k < n) (hn : off + n ≤ bytes.length) :
    ((Memory.ofBytes bytes).readRange off n).getD k 0 = bytes.getD (off + k) 0 := by
  have h1 : k < ((Memory.ofBytes bytes).readRange off n).length := by simpa using hk
  have h2 : off + k < bytes.length := by omega
  simp only [List.getD_eq_getElem?_getD, List.getElem?_eq_getElem h1, List.getElem?_eq_getElem h2, Option.getD_some,
    Memory.getElem_readRange, Memory.read_ofBytes bytes _ h2]

/-- A length of neither admitted value opens nothing (R49). -/
theorem openImage_unsupported (bytes : List Byte) (want granted : Bool) (b : Nat)
    (h : bytes.length ≠ 655360 ∧ bytes.length ≠ 327680) :
    openImage bytes want granted b = .error .unsupportedSize := by
  simp [openImage, geometryOfSize, h.1, h.2]

/-- The image a successful open gives, its caches apart (R48 to R50). -/
theorem openImage_supported (bytes : List Byte) (want granted : Bool) (b : Nat)
    (h : bytes.length = 655360 ∨ bytes.length = 327680) (hb : b ≤ 233) :
    ∃ img, openImage bytes want granted b = .ok img ∧ img.size = bytes.length ∧
      img.store = Memory.ofBytes bytes ∧ img.dirty = false ∧ img.readOnly = !(want && granted) ∧
      (img.tracks, img.sides) = confirmGeometry (bytes.getD (2048 + b) 0) (80, 2) ∧
      img.diskInfo = readDiskInfo ((Memory.ofBytes bytes).readRange 2048 256) b ∧
      img.catalog = scanCatalog { img with catalog := [] } := by
  have hg : geometryOfSize bytes.length = some (80, 2) := by
    rcases h with h | h <;> simp [geometryOfSize, h]
  have hr : ∀ img : Image, img.size = bytes.length → img.store = Memory.ofBytes bytes → 0 < img.tracks →
      0 < img.sides → readSector img 0 0 8 = .ok ((Memory.ofBytes bytes).readRange 2048 256) := by
    intro img h1 h2 h3 h4
    refine (readSector_ok img 0 0 8 _).2 ⟨(inGeometry_iff img 0 0 8).2 ⟨h3, h4, by omega⟩, ?_, ?_⟩
    · rw [sectorOffset_eq, h1]; omega
    · rw [sectorOffset_eq, h2]; simp
  have hd := getD_readRange_ofBytes bytes 2048 256 b (by omega) (by omega)
  simp only [openImage, hg]
  rw [hr _ rfl rfl (Nat.succ_pos _) (Nat.succ_pos _)]
  refine ⟨_, rfl, rfl, rfl, rfl, rfl, ?_, rfl, rfl⟩
  simp only [hd]

/-- An opened image is sound (R30). -/
theorem openImage_sound {bytes : List Byte} {want granted : Bool} {b : Nat} {img : Image} (hb : b ≤ 233)
    (h : openImage bytes want granted b = .ok img) : img.Sound := by
  by_cases hl : bytes.length = 655360 ∨ bytes.length = 327680
  · obtain ⟨img', e, h1, h2, _, _, h5, _, h7⟩ := openImage_supported bytes want granted b hl hb
    rw [e] at h
    cases h
    refine ⟨?_, ?_, ?_, ?_, ?_⟩
    · rcases confirmGeometry_cases (bytes.getD (2048 + b) 0) with c | c | c <;> rw [c] at h5 <;>
        simp only [Prod.mk.injEq] at h5 <;> simp [Image.GeometryReachable, h5.1, h5.2]
    · simpa [Image.SizeReachable, h1] using hl
    · rw [h2]; exact Memory.wf_ofBytes bytes
    · rw [h1, h2]; exact Memory.within_ofBytes bytes
    · rw [h7]
      exact scanSectors_length _ _ _ (by decide)
  · rw [openImage_unsupported bytes want granted b (by simpa using hl)] at h
    cases h

end Sys2Proof.Machine
end

