-- ==== Sys2Proof/Laws/State.lean ====
section
/-! SUPPORT. One lemma per field for every shared update of the state, so that no later proof unfolds one. -/

namespace Sys2Proof.Machine

variable (s : State)

/-! ### `clearOutputs` -/

@[simp] theorem State.clearOutputs_st : (s.clearOutputs).st = s.st := rfl
@[simp] theorem State.clearOutputs_tr : (s.clearOutputs).tr = s.tr := rfl
@[simp] theorem State.clearOutputs_sr : (s.clearOutputs).sr = s.sr := rfl
@[simp] theorem State.clearOutputs_dr : (s.clearOutputs).dr = s.dr := rfl
@[simp] theorem State.clearOutputs_cr : (s.clearOutputs).cr = s.cr := rfl
@[simp] theorem State.clearOutputs_cmdr : (s.clearOutputs).cmdr = s.cmdr := rfl
@[simp] theorem State.clearOutputs_busy : (s.clearOutputs).busy = s.busy := rfl
@[simp] theorem State.clearOutputs_drq : (s.clearOutputs).drq = s.drq := rfl
@[simp] theorem State.clearOutputs_rnf : (s.clearOutputs).rnf = s.rnf := rfl
@[simp] theorem State.clearOutputs_wp : (s.clearOutputs).wp = s.wp := rfl
@[simp] theorem State.clearOutputs_delay : (s.clearOutputs).delay = s.delay := rfl
@[simp] theorem State.clearOutputs_buf : (s.clearOutputs).buf = s.buf := rfl
@[simp] theorem State.clearOutputs_pos : (s.clearOutputs).pos = s.pos := rfl
@[simp] theorem State.clearOutputs_len : (s.clearOutputs).len = s.len := rfl
@[simp] theorem State.clearOutputs_ltrk : (s.clearOutputs).ltrk = s.ltrk := rfl
@[simp] theorem State.clearOutputs_lside : (s.clearOutputs).lside = s.lside := rfl
@[simp] theorem State.clearOutputs_lsec : (s.clearOutputs).lsec = s.lsec := rfl
@[simp] theorem State.clearOutputs_slots : (s.clearOutputs).slots = s.slots := rfl
@[simp] theorem State.clearOutputs_images : (s.clearOutputs).images = s.images := rfl
@[simp] theorem State.clearOutputs_params : (s.clearOutputs).params = s.params := rfl
@[simp] theorem State.clearOutputs_reply : (s.clearOutputs).reply = none := rfl
@[simp] theorem State.clearOutputs_events : (s.clearOutputs).events = [] := rfl
@[simp] theorem State.clearOutputs_hostResult : (s.clearOutputs).hostResult = none := rfl
@[simp] theorem State.clearOutputs_inputs : (s.clearOutputs).inputs = s.inputs := rfl

/-! ### `emit` -/

@[simp] theorem State.emit_st (e : Event) : (s.emit e).st = s.st := rfl
@[simp] theorem State.emit_tr (e : Event) : (s.emit e).tr = s.tr := rfl
@[simp] theorem State.emit_sr (e : Event) : (s.emit e).sr = s.sr := rfl
@[simp] theorem State.emit_dr (e : Event) : (s.emit e).dr = s.dr := rfl
@[simp] theorem State.emit_cr (e : Event) : (s.emit e).cr = s.cr := rfl
@[simp] theorem State.emit_cmdr (e : Event) : (s.emit e).cmdr = s.cmdr := rfl
@[simp] theorem State.emit_busy (e : Event) : (s.emit e).busy = s.busy := rfl
@[simp] theorem State.emit_drq (e : Event) : (s.emit e).drq = s.drq := rfl
@[simp] theorem State.emit_rnf (e : Event) : (s.emit e).rnf = s.rnf := rfl
@[simp] theorem State.emit_wp (e : Event) : (s.emit e).wp = s.wp := rfl
@[simp] theorem State.emit_delay (e : Event) : (s.emit e).delay = s.delay := rfl
@[simp] theorem State.emit_buf (e : Event) : (s.emit e).buf = s.buf := rfl
@[simp] theorem State.emit_pos (e : Event) : (s.emit e).pos = s.pos := rfl
@[simp] theorem State.emit_len (e : Event) : (s.emit e).len = s.len := rfl
@[simp] theorem State.emit_ltrk (e : Event) : (s.emit e).ltrk = s.ltrk := rfl
@[simp] theorem State.emit_lside (e : Event) : (s.emit e).lside = s.lside := rfl
@[simp] theorem State.emit_lsec (e : Event) : (s.emit e).lsec = s.lsec := rfl
@[simp] theorem State.emit_slots (e : Event) : (s.emit e).slots = s.slots := rfl
@[simp] theorem State.emit_images (e : Event) : (s.emit e).images = s.images := rfl
@[simp] theorem State.emit_params (e : Event) : (s.emit e).params = s.params := rfl
@[simp] theorem State.emit_reply (e : Event) : (s.emit e).reply = s.reply := rfl
@[simp] theorem State.emit_events (e : Event) : (s.emit e).events = s.events ++ [e] := rfl
@[simp] theorem State.emit_hostResult (e : Event) : (s.emit e).hostResult = s.hostResult := rfl
@[simp] theorem State.emit_inputs (e : Event) : (s.emit e).inputs = s.inputs := rfl

/-! ### `answer` -/

@[simp] theorem State.answer_st (v : Byte) : (s.answer v).st = s.st := rfl
@[simp] theorem State.answer_tr (v : Byte) : (s.answer v).tr = s.tr := rfl
@[simp] theorem State.answer_sr (v : Byte) : (s.answer v).sr = s.sr := rfl
@[simp] theorem State.answer_dr (v : Byte) : (s.answer v).dr = s.dr := rfl
@[simp] theorem State.answer_cr (v : Byte) : (s.answer v).cr = s.cr := rfl
@[simp] theorem State.answer_cmdr (v : Byte) : (s.answer v).cmdr = s.cmdr := rfl
@[simp] theorem State.answer_busy (v : Byte) : (s.answer v).busy = s.busy := rfl
@[simp] theorem State.answer_drq (v : Byte) : (s.answer v).drq = s.drq := rfl
@[simp] theorem State.answer_rnf (v : Byte) : (s.answer v).rnf = s.rnf := rfl
@[simp] theorem State.answer_wp (v : Byte) : (s.answer v).wp = s.wp := rfl
@[simp] theorem State.answer_delay (v : Byte) : (s.answer v).delay = s.delay := rfl
@[simp] theorem State.answer_buf (v : Byte) : (s.answer v).buf = s.buf := rfl
@[simp] theorem State.answer_pos (v : Byte) : (s.answer v).pos = s.pos := rfl
@[simp] theorem State.answer_len (v : Byte) : (s.answer v).len = s.len := rfl
@[simp] theorem State.answer_ltrk (v : Byte) : (s.answer v).ltrk = s.ltrk := rfl
@[simp] theorem State.answer_lside (v : Byte) : (s.answer v).lside = s.lside := rfl
@[simp] theorem State.answer_lsec (v : Byte) : (s.answer v).lsec = s.lsec := rfl
@[simp] theorem State.answer_slots (v : Byte) : (s.answer v).slots = s.slots := rfl
@[simp] theorem State.answer_images (v : Byte) : (s.answer v).images = s.images := rfl
@[simp] theorem State.answer_params (v : Byte) : (s.answer v).params = s.params := rfl
@[simp] theorem State.answer_reply (v : Byte) : (s.answer v).reply = some v := rfl
@[simp] theorem State.answer_events (v : Byte) : (s.answer v).events = s.events := rfl
@[simp] theorem State.answer_hostResult (v : Byte) : (s.answer v).hostResult = s.hostResult := rfl
@[simp] theorem State.answer_inputs (v : Byte) : (s.answer v).inputs = s.inputs := rfl

/-! ### `hostAnswer` -/

@[simp] theorem State.hostAnswer_st (r : HostResult) : (s.hostAnswer r).st = s.st := rfl
@[simp] theorem State.hostAnswer_tr (r : HostResult) : (s.hostAnswer r).tr = s.tr := rfl
@[simp] theorem State.hostAnswer_sr (r : HostResult) : (s.hostAnswer r).sr = s.sr := rfl
@[simp] theorem State.hostAnswer_dr (r : HostResult) : (s.hostAnswer r).dr = s.dr := rfl
@[simp] theorem State.hostAnswer_cr (r : HostResult) : (s.hostAnswer r).cr = s.cr := rfl
@[simp] theorem State.hostAnswer_cmdr (r : HostResult) : (s.hostAnswer r).cmdr = s.cmdr := rfl
@[simp] theorem State.hostAnswer_busy (r : HostResult) : (s.hostAnswer r).busy = s.busy := rfl
@[simp] theorem State.hostAnswer_drq (r : HostResult) : (s.hostAnswer r).drq = s.drq := rfl
@[simp] theorem State.hostAnswer_rnf (r : HostResult) : (s.hostAnswer r).rnf = s.rnf := rfl
@[simp] theorem State.hostAnswer_wp (r : HostResult) : (s.hostAnswer r).wp = s.wp := rfl
@[simp] theorem State.hostAnswer_delay (r : HostResult) : (s.hostAnswer r).delay = s.delay := rfl
@[simp] theorem State.hostAnswer_buf (r : HostResult) : (s.hostAnswer r).buf = s.buf := rfl
@[simp] theorem State.hostAnswer_pos (r : HostResult) : (s.hostAnswer r).pos = s.pos := rfl
@[simp] theorem State.hostAnswer_len (r : HostResult) : (s.hostAnswer r).len = s.len := rfl
@[simp] theorem State.hostAnswer_ltrk (r : HostResult) : (s.hostAnswer r).ltrk = s.ltrk := rfl
@[simp] theorem State.hostAnswer_lside (r : HostResult) : (s.hostAnswer r).lside = s.lside := rfl
@[simp] theorem State.hostAnswer_lsec (r : HostResult) : (s.hostAnswer r).lsec = s.lsec := rfl
@[simp] theorem State.hostAnswer_slots (r : HostResult) : (s.hostAnswer r).slots = s.slots := rfl
@[simp] theorem State.hostAnswer_images (r : HostResult) : (s.hostAnswer r).images = s.images := rfl
@[simp] theorem State.hostAnswer_params (r : HostResult) : (s.hostAnswer r).params = s.params := rfl
@[simp] theorem State.hostAnswer_reply (r : HostResult) : (s.hostAnswer r).reply = s.reply := rfl
@[simp] theorem State.hostAnswer_events (r : HostResult) : (s.hostAnswer r).events = s.events := rfl
@[simp] theorem State.hostAnswer_hostResult (r : HostResult) : (s.hostAnswer r).hostResult = some r := rfl
@[simp] theorem State.hostAnswer_inputs (r : HostResult) : (s.hostAnswer r).inputs = s.inputs := rfl

/-! ### `setImage` -/

@[simp] theorem State.setImage_st (m : Nat) (img : Option Image) : (s.setImage m img).st = s.st := rfl
@[simp] theorem State.setImage_tr (m : Nat) (img : Option Image) : (s.setImage m img).tr = s.tr := rfl
@[simp] theorem State.setImage_sr (m : Nat) (img : Option Image) : (s.setImage m img).sr = s.sr := rfl
@[simp] theorem State.setImage_dr (m : Nat) (img : Option Image) : (s.setImage m img).dr = s.dr := rfl
@[simp] theorem State.setImage_cr (m : Nat) (img : Option Image) : (s.setImage m img).cr = s.cr := rfl
@[simp] theorem State.setImage_cmdr (m : Nat) (img : Option Image) : (s.setImage m img).cmdr = s.cmdr := rfl
@[simp] theorem State.setImage_busy (m : Nat) (img : Option Image) : (s.setImage m img).busy = s.busy := rfl
@[simp] theorem State.setImage_drq (m : Nat) (img : Option Image) : (s.setImage m img).drq = s.drq := rfl
@[simp] theorem State.setImage_rnf (m : Nat) (img : Option Image) : (s.setImage m img).rnf = s.rnf := rfl
@[simp] theorem State.setImage_wp (m : Nat) (img : Option Image) : (s.setImage m img).wp = s.wp := rfl
@[simp] theorem State.setImage_delay (m : Nat) (img : Option Image) : (s.setImage m img).delay = s.delay := rfl
@[simp] theorem State.setImage_buf (m : Nat) (img : Option Image) : (s.setImage m img).buf = s.buf := rfl
@[simp] theorem State.setImage_pos (m : Nat) (img : Option Image) : (s.setImage m img).pos = s.pos := rfl
@[simp] theorem State.setImage_len (m : Nat) (img : Option Image) : (s.setImage m img).len = s.len := rfl
@[simp] theorem State.setImage_ltrk (m : Nat) (img : Option Image) : (s.setImage m img).ltrk = s.ltrk := rfl
@[simp] theorem State.setImage_lside (m : Nat) (img : Option Image) : (s.setImage m img).lside = s.lside := rfl
@[simp] theorem State.setImage_lsec (m : Nat) (img : Option Image) : (s.setImage m img).lsec = s.lsec := rfl
@[simp] theorem State.setImage_slots (m : Nat) (img : Option Image) : (s.setImage m img).slots = s.slots := rfl
@[simp] theorem State.setImage_images (m : Nat) (img : Option Image) : (s.setImage m img).images = s.images.set m img := rfl
@[simp] theorem State.setImage_params (m : Nat) (img : Option Image) : (s.setImage m img).params = s.params := rfl
@[simp] theorem State.setImage_reply (m : Nat) (img : Option Image) : (s.setImage m img).reply = s.reply := rfl
@[simp] theorem State.setImage_events (m : Nat) (img : Option Image) : (s.setImage m img).events = s.events := rfl
@[simp] theorem State.setImage_hostResult (m : Nat) (img : Option Image) : (s.setImage m img).hostResult = s.hostResult := rfl
@[simp] theorem State.setImage_inputs (m : Nat) (img : Option Image) : (s.setImage m img).inputs = s.inputs := rfl

/-! ### `withInputs` -/

@[simp] theorem State.withInputs_st (rest : List Input) : (s.withInputs rest).st = s.st := rfl
@[simp] theorem State.withInputs_tr (rest : List Input) : (s.withInputs rest).tr = s.tr := rfl
@[simp] theorem State.withInputs_sr (rest : List Input) : (s.withInputs rest).sr = s.sr := rfl
@[simp] theorem State.withInputs_dr (rest : List Input) : (s.withInputs rest).dr = s.dr := rfl
@[simp] theorem State.withInputs_cr (rest : List Input) : (s.withInputs rest).cr = s.cr := rfl
@[simp] theorem State.withInputs_cmdr (rest : List Input) : (s.withInputs rest).cmdr = s.cmdr := rfl
@[simp] theorem State.withInputs_busy (rest : List Input) : (s.withInputs rest).busy = s.busy := rfl
@[simp] theorem State.withInputs_drq (rest : List Input) : (s.withInputs rest).drq = s.drq := rfl
@[simp] theorem State.withInputs_rnf (rest : List Input) : (s.withInputs rest).rnf = s.rnf := rfl
@[simp] theorem State.withInputs_wp (rest : List Input) : (s.withInputs rest).wp = s.wp := rfl
@[simp] theorem State.withInputs_delay (rest : List Input) : (s.withInputs rest).delay = s.delay := rfl
@[simp] theorem State.withInputs_buf (rest : List Input) : (s.withInputs rest).buf = s.buf := rfl
@[simp] theorem State.withInputs_pos (rest : List Input) : (s.withInputs rest).pos = s.pos := rfl
@[simp] theorem State.withInputs_len (rest : List Input) : (s.withInputs rest).len = s.len := rfl
@[simp] theorem State.withInputs_ltrk (rest : List Input) : (s.withInputs rest).ltrk = s.ltrk := rfl
@[simp] theorem State.withInputs_lside (rest : List Input) : (s.withInputs rest).lside = s.lside := rfl
@[simp] theorem State.withInputs_lsec (rest : List Input) : (s.withInputs rest).lsec = s.lsec := rfl
@[simp] theorem State.withInputs_slots (rest : List Input) : (s.withInputs rest).slots = s.slots := rfl
@[simp] theorem State.withInputs_images (rest : List Input) : (s.withInputs rest).images = s.images := rfl
@[simp] theorem State.withInputs_params (rest : List Input) : (s.withInputs rest).params = s.params := rfl
@[simp] theorem State.withInputs_reply (rest : List Input) : (s.withInputs rest).reply = s.reply := rfl
@[simp] theorem State.withInputs_events (rest : List Input) : (s.withInputs rest).events = s.events := rfl
@[simp] theorem State.withInputs_hostResult (rest : List Input) : (s.withInputs rest).hostResult = s.hostResult := rfl
@[simp] theorem State.withInputs_inputs (rest : List Input) : (s.withInputs rest).inputs = rest := rfl

/-! ### `deliver` -/

@[simp] theorem State.deliver_st (r : Request) : (s.deliver r).st = s.st := rfl
@[simp] theorem State.deliver_tr (r : Request) : (s.deliver r).tr = s.tr := rfl
@[simp] theorem State.deliver_sr (r : Request) : (s.deliver r).sr = s.sr := rfl
@[simp] theorem State.deliver_dr (r : Request) : (s.deliver r).dr = s.dr := rfl
@[simp] theorem State.deliver_cr (r : Request) : (s.deliver r).cr = s.cr := rfl
@[simp] theorem State.deliver_cmdr (r : Request) : (s.deliver r).cmdr = s.cmdr := rfl
@[simp] theorem State.deliver_busy (r : Request) : (s.deliver r).busy = s.busy := rfl
@[simp] theorem State.deliver_drq (r : Request) : (s.deliver r).drq = s.drq := rfl
@[simp] theorem State.deliver_rnf (r : Request) : (s.deliver r).rnf = s.rnf := rfl
@[simp] theorem State.deliver_wp (r : Request) : (s.deliver r).wp = s.wp := rfl
@[simp] theorem State.deliver_delay (r : Request) : (s.deliver r).delay = s.delay := rfl
@[simp] theorem State.deliver_buf (r : Request) : (s.deliver r).buf = s.buf := rfl
@[simp] theorem State.deliver_pos (r : Request) : (s.deliver r).pos = s.pos := rfl
@[simp] theorem State.deliver_len (r : Request) : (s.deliver r).len = s.len := rfl
@[simp] theorem State.deliver_ltrk (r : Request) : (s.deliver r).ltrk = s.ltrk := rfl
@[simp] theorem State.deliver_lside (r : Request) : (s.deliver r).lside = s.lside := rfl
@[simp] theorem State.deliver_lsec (r : Request) : (s.deliver r).lsec = s.lsec := rfl
@[simp] theorem State.deliver_slots (r : Request) : (s.deliver r).slots = s.slots := rfl
@[simp] theorem State.deliver_images (r : Request) : (s.deliver r).images = s.images := rfl
@[simp] theorem State.deliver_params (r : Request) : (s.deliver r).params = s.params := rfl
@[simp] theorem State.deliver_reply (r : Request) : (s.deliver r).reply = s.reply := rfl
@[simp] theorem State.deliver_events (r : Request) : (s.deliver r).events = s.events := rfl
@[simp] theorem State.deliver_hostResult (r : Request) : (s.deliver r).hostResult = s.hostResult := rfl
@[simp] theorem State.deliver_inputs (r : Request) : (s.deliver r).inputs = .request r :: s.inputs := rfl

/-! ### `prologue` -/

@[simp] theorem State.prologue_st (v : Byte) : (s.prologue v).st = s.st := rfl
@[simp] theorem State.prologue_tr (v : Byte) : (s.prologue v).tr = s.tr := rfl
@[simp] theorem State.prologue_sr (v : Byte) : (s.prologue v).sr = s.sr := rfl
@[simp] theorem State.prologue_dr (v : Byte) : (s.prologue v).dr = s.dr := rfl
@[simp] theorem State.prologue_cr (v : Byte) : (s.prologue v).cr = s.cr := rfl
@[simp] theorem State.prologue_cmdr (v : Byte) : (s.prologue v).cmdr = v := rfl
@[simp] theorem State.prologue_busy (v : Byte) : (s.prologue v).busy = s.busy := rfl
@[simp] theorem State.prologue_drq (v : Byte) : (s.prologue v).drq = false := rfl
@[simp] theorem State.prologue_rnf (v : Byte) : (s.prologue v).rnf = false := rfl
@[simp] theorem State.prologue_wp (v : Byte) : (s.prologue v).wp = false := rfl
@[simp] theorem State.prologue_delay (v : Byte) : (s.prologue v).delay = s.delay := rfl
@[simp] theorem State.prologue_buf (v : Byte) : (s.prologue v).buf = s.buf := rfl
@[simp] theorem State.prologue_pos (v : Byte) : (s.prologue v).pos = s.pos := rfl
@[simp] theorem State.prologue_len (v : Byte) : (s.prologue v).len = s.len := rfl
@[simp] theorem State.prologue_ltrk (v : Byte) : (s.prologue v).ltrk = s.ltrk := rfl
@[simp] theorem State.prologue_lside (v : Byte) : (s.prologue v).lside = s.lside := rfl
@[simp] theorem State.prologue_lsec (v : Byte) : (s.prologue v).lsec = s.lsec := rfl
@[simp] theorem State.prologue_slots (v : Byte) : (s.prologue v).slots = s.slots := rfl
@[simp] theorem State.prologue_images (v : Byte) : (s.prologue v).images = s.images := rfl
@[simp] theorem State.prologue_params (v : Byte) : (s.prologue v).params = s.params := rfl
@[simp] theorem State.prologue_reply (v : Byte) : (s.prologue v).reply = s.reply := rfl
@[simp] theorem State.prologue_events (v : Byte) : (s.prologue v).events = s.events := rfl
@[simp] theorem State.prologue_hostResult (v : Byte) : (s.prologue v).hostResult = s.hostResult := rfl
@[simp] theorem State.prologue_inputs (v : Byte) : (s.prologue v).inputs = s.inputs := rfl

/-! ### `complete` -/

@[simp] theorem State.complete_st : (s.complete).st = .idle := rfl
@[simp] theorem State.complete_tr : (s.complete).tr = s.tr := rfl
@[simp] theorem State.complete_sr : (s.complete).sr = s.sr := rfl
@[simp] theorem State.complete_dr : (s.complete).dr = s.dr := rfl
@[simp] theorem State.complete_cr : (s.complete).cr = s.cr := rfl
@[simp] theorem State.complete_cmdr : (s.complete).cmdr = s.cmdr := rfl
@[simp] theorem State.complete_busy : (s.complete).busy = false := rfl
@[simp] theorem State.complete_drq : (s.complete).drq = false := rfl
@[simp] theorem State.complete_rnf : (s.complete).rnf = s.rnf := rfl
@[simp] theorem State.complete_wp : (s.complete).wp = s.wp := rfl
@[simp] theorem State.complete_delay : (s.complete).delay = 0 := rfl
@[simp] theorem State.complete_buf : (s.complete).buf = s.buf := rfl
@[simp] theorem State.complete_pos : (s.complete).pos = s.pos := rfl
@[simp] theorem State.complete_len : (s.complete).len = s.len := rfl
@[simp] theorem State.complete_ltrk : (s.complete).ltrk = s.ltrk := rfl
@[simp] theorem State.complete_lside : (s.complete).lside = s.lside := rfl
@[simp] theorem State.complete_lsec : (s.complete).lsec = s.lsec := rfl
@[simp] theorem State.complete_slots : (s.complete).slots = s.slots := rfl
@[simp] theorem State.complete_images : (s.complete).images = s.images := rfl
@[simp] theorem State.complete_params : (s.complete).params = s.params := rfl
@[simp] theorem State.complete_reply : (s.complete).reply = s.reply := rfl
@[simp] theorem State.complete_events : (s.complete).events = s.events ++ [.irq] := rfl
@[simp] theorem State.complete_hostResult : (s.complete).hostResult = s.hostResult := rfl
@[simp] theorem State.complete_inputs : (s.complete).inputs = s.inputs := rfl

/-! ### `enterBusy` -/

@[simp] theorem State.enterBusy_st (d : Ticks) : (s.enterBusy d).st = .busy := rfl
@[simp] theorem State.enterBusy_tr (d : Ticks) : (s.enterBusy d).tr = s.tr := rfl
@[simp] theorem State.enterBusy_sr (d : Ticks) : (s.enterBusy d).sr = s.sr := rfl
@[simp] theorem State.enterBusy_dr (d : Ticks) : (s.enterBusy d).dr = s.dr := rfl
@[simp] theorem State.enterBusy_cr (d : Ticks) : (s.enterBusy d).cr = s.cr := rfl
@[simp] theorem State.enterBusy_cmdr (d : Ticks) : (s.enterBusy d).cmdr = s.cmdr := rfl
@[simp] theorem State.enterBusy_busy (d : Ticks) : (s.enterBusy d).busy = true := rfl
@[simp] theorem State.enterBusy_drq (d : Ticks) : (s.enterBusy d).drq = s.drq := rfl
@[simp] theorem State.enterBusy_rnf (d : Ticks) : (s.enterBusy d).rnf = s.rnf := rfl
@[simp] theorem State.enterBusy_wp (d : Ticks) : (s.enterBusy d).wp = s.wp := rfl
@[simp] theorem State.enterBusy_delay (d : Ticks) : (s.enterBusy d).delay = d := rfl
@[simp] theorem State.enterBusy_buf (d : Ticks) : (s.enterBusy d).buf = s.buf := rfl
@[simp] theorem State.enterBusy_pos (d : Ticks) : (s.enterBusy d).pos = 0 := rfl
@[simp] theorem State.enterBusy_len (d : Ticks) : (s.enterBusy d).len = 0 := rfl
@[simp] theorem State.enterBusy_ltrk (d : Ticks) : (s.enterBusy d).ltrk = s.ltrk := rfl
@[simp] theorem State.enterBusy_lside (d : Ticks) : (s.enterBusy d).lside = s.lside := rfl
@[simp] theorem State.enterBusy_lsec (d : Ticks) : (s.enterBusy d).lsec = s.lsec := rfl
@[simp] theorem State.enterBusy_slots (d : Ticks) : (s.enterBusy d).slots = s.slots := rfl
@[simp] theorem State.enterBusy_images (d : Ticks) : (s.enterBusy d).images = s.images := rfl
@[simp] theorem State.enterBusy_params (d : Ticks) : (s.enterBusy d).params = s.params := rfl
@[simp] theorem State.enterBusy_reply (d : Ticks) : (s.enterBusy d).reply = s.reply := rfl
@[simp] theorem State.enterBusy_events (d : Ticks) : (s.enterBusy d).events = s.events := rfl
@[simp] theorem State.enterBusy_hostResult (d : Ticks) : (s.enterBusy d).hostResult = s.hostResult := rfl
@[simp] theorem State.enterBusy_inputs (d : Ticks) : (s.enterBusy d).inputs = s.inputs := rfl

/-! ### `abort` -/

@[simp] theorem State.abort_st : (s.abort).st = .idle := rfl
@[simp] theorem State.abort_tr : (s.abort).tr = s.tr := rfl
@[simp] theorem State.abort_sr : (s.abort).sr = s.sr := rfl
@[simp] theorem State.abort_dr : (s.abort).dr = s.dr := rfl
@[simp] theorem State.abort_cr : (s.abort).cr = s.cr := rfl
@[simp] theorem State.abort_cmdr : (s.abort).cmdr = s.cmdr := rfl
@[simp] theorem State.abort_busy : (s.abort).busy = false := rfl
@[simp] theorem State.abort_drq : (s.abort).drq = s.drq := rfl
@[simp] theorem State.abort_rnf : (s.abort).rnf = s.rnf := rfl
@[simp] theorem State.abort_wp : (s.abort).wp = s.wp := rfl
@[simp] theorem State.abort_delay : (s.abort).delay = 0 := rfl
@[simp] theorem State.abort_buf : (s.abort).buf = s.buf := rfl
@[simp] theorem State.abort_pos : (s.abort).pos = 0 := rfl
@[simp] theorem State.abort_len : (s.abort).len = 0 := rfl
@[simp] theorem State.abort_ltrk : (s.abort).ltrk = s.ltrk := rfl
@[simp] theorem State.abort_lside : (s.abort).lside = s.lside := rfl
@[simp] theorem State.abort_lsec : (s.abort).lsec = s.lsec := rfl
@[simp] theorem State.abort_slots : (s.abort).slots = s.slots := rfl
@[simp] theorem State.abort_images : (s.abort).images = s.images := rfl
@[simp] theorem State.abort_params : (s.abort).params = s.params := rfl
@[simp] theorem State.abort_reply : (s.abort).reply = s.reply := rfl
@[simp] theorem State.abort_events : (s.abort).events = s.events := rfl
@[simp] theorem State.abort_hostResult : (s.abort).hostResult = s.hostResult := rfl
@[simp] theorem State.abort_inputs : (s.abort).inputs = s.inputs := rfl

/-! ### `resetBody` -/

@[simp] theorem State.resetBody_st : (s.resetBody).st = .idle := rfl
@[simp] theorem State.resetBody_tr : (s.resetBody).tr = s.params.resetTrack := rfl
@[simp] theorem State.resetBody_sr : (s.resetBody).sr = s.params.resetSector := rfl
@[simp] theorem State.resetBody_dr : (s.resetBody).dr = s.params.resetData := rfl
@[simp] theorem State.resetBody_cr : (s.resetBody).cr = s.params.resetControl := rfl
@[simp] theorem State.resetBody_cmdr : (s.resetBody).cmdr = s.cmdr := rfl
@[simp] theorem State.resetBody_busy : (s.resetBody).busy = false := rfl
@[simp] theorem State.resetBody_drq : (s.resetBody).drq = false := rfl
@[simp] theorem State.resetBody_rnf : (s.resetBody).rnf = false := rfl
@[simp] theorem State.resetBody_wp : (s.resetBody).wp = false := rfl
@[simp] theorem State.resetBody_delay : (s.resetBody).delay = 0 := rfl
@[simp] theorem State.resetBody_buf : (s.resetBody).buf = s.buf := rfl
@[simp] theorem State.resetBody_pos : (s.resetBody).pos = 0 := rfl
@[simp] theorem State.resetBody_len : (s.resetBody).len = 0 := rfl
@[simp] theorem State.resetBody_ltrk : (s.resetBody).ltrk = s.ltrk := rfl
@[simp] theorem State.resetBody_lside : (s.resetBody).lside = s.lside := rfl
@[simp] theorem State.resetBody_lsec : (s.resetBody).lsec = s.lsec := rfl
@[simp] theorem State.resetBody_slots : (s.resetBody).slots = s.slots := rfl
@[simp] theorem State.resetBody_images : (s.resetBody).images = s.images := rfl
@[simp] theorem State.resetBody_params : (s.resetBody).params = s.params := rfl
@[simp] theorem State.resetBody_reply : (s.resetBody).reply = s.reply := rfl
@[simp] theorem State.resetBody_events : (s.resetBody).events = s.events := rfl
@[simp] theorem State.resetBody_hostResult : (s.resetBody).hostResult = s.hostResult := rfl
@[simp] theorem State.resetBody_inputs : (s.resetBody).inputs = s.inputs := rfl

/-! ### `detachBody` -/

@[simp] theorem State.detachBody_st (d : Drive) : (s.detachBody d).st = s.st := rfl
@[simp] theorem State.detachBody_tr (d : Drive) : (s.detachBody d).tr = s.tr := rfl
@[simp] theorem State.detachBody_sr (d : Drive) : (s.detachBody d).sr = s.sr := rfl
@[simp] theorem State.detachBody_dr (d : Drive) : (s.detachBody d).dr = s.dr := rfl
@[simp] theorem State.detachBody_cr (d : Drive) : (s.detachBody d).cr = s.cr := rfl
@[simp] theorem State.detachBody_cmdr (d : Drive) : (s.detachBody d).cmdr = s.cmdr := rfl
@[simp] theorem State.detachBody_busy (d : Drive) : (s.detachBody d).busy = s.busy := rfl
@[simp] theorem State.detachBody_drq (d : Drive) : (s.detachBody d).drq = s.drq := rfl
@[simp] theorem State.detachBody_rnf (d : Drive) : (s.detachBody d).rnf = s.rnf := rfl
@[simp] theorem State.detachBody_wp (d : Drive) : (s.detachBody d).wp = s.wp := rfl
@[simp] theorem State.detachBody_delay (d : Drive) : (s.detachBody d).delay = s.delay := rfl
@[simp] theorem State.detachBody_buf (d : Drive) : (s.detachBody d).buf = s.buf := rfl
@[simp] theorem State.detachBody_pos (d : Drive) : (s.detachBody d).pos = s.pos := rfl
@[simp] theorem State.detachBody_len (d : Drive) : (s.detachBody d).len = s.len := rfl
@[simp] theorem State.detachBody_ltrk (d : Drive) : (s.detachBody d).ltrk = s.ltrk := rfl
@[simp] theorem State.detachBody_lside (d : Drive) : (s.detachBody d).lside = s.lside := rfl
@[simp] theorem State.detachBody_lsec (d : Drive) : (s.detachBody d).lsec = s.lsec := rfl
@[simp] theorem State.detachBody_slots (d : Drive) : (s.detachBody d).slots = s.slots.set d none := rfl
@[simp] theorem State.detachBody_images (d : Drive) : (s.detachBody d).images = s.images := rfl
@[simp] theorem State.detachBody_params (d : Drive) : (s.detachBody d).params = s.params := rfl
@[simp] theorem State.detachBody_reply (d : Drive) : (s.detachBody d).reply = s.reply := rfl
@[simp] theorem State.detachBody_events (d : Drive) : (s.detachBody d).events = s.events := rfl
@[simp] theorem State.detachBody_hostResult (d : Drive) : (s.detachBody d).hostResult = s.hostResult := rfl
@[simp] theorem State.detachBody_inputs (d : Drive) : (s.detachBody d).inputs = s.inputs := rfl

/-! ### `openXfer` -/

@[simp] theorem State.openXfer_st (dir : Dir) (n : BufCount) : (s.openXfer dir n).st =
    match dir with
      | .read => .xferRead
      | .write => .xferWrite := rfl
@[simp] theorem State.openXfer_tr (dir : Dir) (n : BufCount) : (s.openXfer dir n).tr = s.tr := rfl
@[simp] theorem State.openXfer_sr (dir : Dir) (n : BufCount) : (s.openXfer dir n).sr = s.sr := rfl
@[simp] theorem State.openXfer_dr (dir : Dir) (n : BufCount) : (s.openXfer dir n).dr = s.dr := rfl
@[simp] theorem State.openXfer_cr (dir : Dir) (n : BufCount) : (s.openXfer dir n).cr = s.cr := rfl
@[simp] theorem State.openXfer_cmdr (dir : Dir) (n : BufCount) : (s.openXfer dir n).cmdr = s.cmdr := rfl
@[simp] theorem State.openXfer_busy (dir : Dir) (n : BufCount) : (s.openXfer dir n).busy = true := rfl
@[simp] theorem State.openXfer_drq (dir : Dir) (n : BufCount) : (s.openXfer dir n).drq = true := rfl
@[simp] theorem State.openXfer_rnf (dir : Dir) (n : BufCount) : (s.openXfer dir n).rnf = s.rnf := rfl
@[simp] theorem State.openXfer_wp (dir : Dir) (n : BufCount) : (s.openXfer dir n).wp = s.wp := rfl
@[simp] theorem State.openXfer_delay (dir : Dir) (n : BufCount) : (s.openXfer dir n).delay = 0 := rfl
@[simp] theorem State.openXfer_buf (dir : Dir) (n : BufCount) : (s.openXfer dir n).buf = s.buf := rfl
@[simp] theorem State.openXfer_pos (dir : Dir) (n : BufCount) : (s.openXfer dir n).pos = 0 := rfl
@[simp] theorem State.openXfer_len (dir : Dir) (n : BufCount) : (s.openXfer dir n).len = n := rfl
@[simp] theorem State.openXfer_ltrk (dir : Dir) (n : BufCount) : (s.openXfer dir n).ltrk = s.ltrk := rfl
@[simp] theorem State.openXfer_lside (dir : Dir) (n : BufCount) : (s.openXfer dir n).lside = s.lside := rfl
@[simp] theorem State.openXfer_lsec (dir : Dir) (n : BufCount) : (s.openXfer dir n).lsec = s.lsec := rfl
@[simp] theorem State.openXfer_slots (dir : Dir) (n : BufCount) : (s.openXfer dir n).slots = s.slots := rfl
@[simp] theorem State.openXfer_images (dir : Dir) (n : BufCount) : (s.openXfer dir n).images = s.images := rfl
@[simp] theorem State.openXfer_params (dir : Dir) (n : BufCount) : (s.openXfer dir n).params = s.params := rfl
@[simp] theorem State.openXfer_reply (dir : Dir) (n : BufCount) : (s.openXfer dir n).reply = s.reply := rfl
@[simp] theorem State.openXfer_events (dir : Dir) (n : BufCount) : (s.openXfer dir n).events = s.events ++ [.drqEv] := rfl
@[simp] theorem State.openXfer_hostResult (dir : Dir) (n : BufCount) : (s.openXfer dir n).hostResult = s.hostResult := rfl
@[simp] theorem State.openXfer_inputs (dir : Dir) (n : BufCount) : (s.openXfer dir n).inputs = s.inputs := rfl

/-! ### `raise` -/

@[simp] theorem State.raise_st (f : Failure) : (s.raise f).st = s.st := by cases f <;> rfl
@[simp] theorem State.raise_tr (f : Failure) : (s.raise f).tr = s.tr := by cases f <;> rfl
@[simp] theorem State.raise_sr (f : Failure) : (s.raise f).sr = s.sr := by cases f <;> rfl
@[simp] theorem State.raise_dr (f : Failure) : (s.raise f).dr = s.dr := by cases f <;> rfl
@[simp] theorem State.raise_cr (f : Failure) : (s.raise f).cr = s.cr := by cases f <;> rfl
@[simp] theorem State.raise_cmdr (f : Failure) : (s.raise f).cmdr = s.cmdr := by cases f <;> rfl
@[simp] theorem State.raise_busy (f : Failure) : (s.raise f).busy = s.busy := by cases f <;> rfl
@[simp] theorem State.raise_drq (f : Failure) : (s.raise f).drq = s.drq := by cases f <;> rfl
@[simp] theorem State.raise_rnf (f : Failure) : (s.raise f).rnf = (s.rnf || f == .recordNotFound) := by cases f <;> simp [State.raise]
@[simp] theorem State.raise_wp (f : Failure) : (s.raise f).wp = (s.wp || f == .writeProtect) := by cases f <;> simp [State.raise]
@[simp] theorem State.raise_delay (f : Failure) : (s.raise f).delay = s.delay := by cases f <;> rfl
@[simp] theorem State.raise_buf (f : Failure) : (s.raise f).buf = s.buf := by cases f <;> rfl
@[simp] theorem State.raise_pos (f : Failure) : (s.raise f).pos = s.pos := by cases f <;> rfl
@[simp] theorem State.raise_len (f : Failure) : (s.raise f).len = s.len := by cases f <;> rfl
@[simp] theorem State.raise_ltrk (f : Failure) : (s.raise f).ltrk = s.ltrk := by cases f <;> rfl
@[simp] theorem State.raise_lside (f : Failure) : (s.raise f).lside = s.lside := by cases f <;> rfl
@[simp] theorem State.raise_lsec (f : Failure) : (s.raise f).lsec = s.lsec := by cases f <;> rfl
@[simp] theorem State.raise_slots (f : Failure) : (s.raise f).slots = s.slots := by cases f <;> rfl
@[simp] theorem State.raise_images (f : Failure) : (s.raise f).images = s.images := by cases f <;> rfl
@[simp] theorem State.raise_params (f : Failure) : (s.raise f).params = s.params := by cases f <;> rfl
@[simp] theorem State.raise_reply (f : Failure) : (s.raise f).reply = s.reply := by cases f <;> rfl
@[simp] theorem State.raise_events (f : Failure) : (s.raise f).events = s.events := by cases f <;> rfl
@[simp] theorem State.raise_hostResult (f : Failure) : (s.raise f).hostResult = s.hostResult := by cases f <;> rfl
@[simp] theorem State.raise_inputs (f : Failure) : (s.raise f).inputs = s.inputs := by cases f <;> rfl

/-! ### `failWith` -/

@[simp] theorem State.failWith_st (f : Failure) : (s.failWith f).st = .idle := by cases f <;> rfl
@[simp] theorem State.failWith_tr (f : Failure) : (s.failWith f).tr = s.tr := by cases f <;> rfl
@[simp] theorem State.failWith_sr (f : Failure) : (s.failWith f).sr = s.sr := by cases f <;> rfl
@[simp] theorem State.failWith_dr (f : Failure) : (s.failWith f).dr = s.dr := by cases f <;> rfl
@[simp] theorem State.failWith_cr (f : Failure) : (s.failWith f).cr = s.cr := by cases f <;> rfl
@[simp] theorem State.failWith_cmdr (f : Failure) : (s.failWith f).cmdr = s.cmdr := by cases f <;> rfl
@[simp] theorem State.failWith_busy (f : Failure) : (s.failWith f).busy = false := by cases f <;> rfl
@[simp] theorem State.failWith_drq (f : Failure) : (s.failWith f).drq = false := by cases f <;> rfl
@[simp] theorem State.failWith_rnf (f : Failure) : (s.failWith f).rnf = (s.rnf || f == .recordNotFound) := by cases f <;> simp [State.failWith, State.raise, State.complete, State.emit]
@[simp] theorem State.failWith_wp (f : Failure) : (s.failWith f).wp = (s.wp || f == .writeProtect) := by cases f <;> simp [State.failWith, State.raise, State.complete, State.emit]
@[simp] theorem State.failWith_delay (f : Failure) : (s.failWith f).delay = 0 := by cases f <;> rfl
@[simp] theorem State.failWith_buf (f : Failure) : (s.failWith f).buf = s.buf := by cases f <;> rfl
@[simp] theorem State.failWith_pos (f : Failure) : (s.failWith f).pos = 0 := by cases f <;> rfl
@[simp] theorem State.failWith_len (f : Failure) : (s.failWith f).len = 0 := by cases f <;> rfl
@[simp] theorem State.failWith_ltrk (f : Failure) : (s.failWith f).ltrk = s.ltrk := by cases f <;> rfl
@[simp] theorem State.failWith_lside (f : Failure) : (s.failWith f).lside = s.lside := by cases f <;> rfl
@[simp] theorem State.failWith_lsec (f : Failure) : (s.failWith f).lsec = s.lsec := by cases f <;> rfl
@[simp] theorem State.failWith_slots (f : Failure) : (s.failWith f).slots = s.slots := by cases f <;> rfl
@[simp] theorem State.failWith_images (f : Failure) : (s.failWith f).images = s.images := by cases f <;> rfl
@[simp] theorem State.failWith_params (f : Failure) : (s.failWith f).params = s.params := by cases f <;> rfl
@[simp] theorem State.failWith_reply (f : Failure) : (s.failWith f).reply = s.reply := by cases f <;> rfl
@[simp] theorem State.failWith_events (f : Failure) : (s.failWith f).events = s.events ++ [.irq] := by cases f <;> rfl
@[simp] theorem State.failWith_hostResult (f : Failure) : (s.failWith f).hostResult = s.hostResult := by cases f <;> rfl
@[simp] theorem State.failWith_inputs (f : Failure) : (s.failWith f).inputs = s.inputs := by cases f <;> rfl

/-! ### `deliverByte` -/

@[simp] theorem State.deliverByte_st : (s.deliverByte).st = s.st := rfl
@[simp] theorem State.deliverByte_tr : (s.deliverByte).tr = s.tr := rfl
@[simp] theorem State.deliverByte_sr : (s.deliverByte).sr = s.sr := rfl
@[simp] theorem State.deliverByte_dr : (s.deliverByte).dr = s.nextByte := rfl
@[simp] theorem State.deliverByte_cr : (s.deliverByte).cr = s.cr := rfl
@[simp] theorem State.deliverByte_cmdr : (s.deliverByte).cmdr = s.cmdr := rfl
@[simp] theorem State.deliverByte_busy : (s.deliverByte).busy = s.busy := rfl
@[simp] theorem State.deliverByte_drq : (s.deliverByte).drq = s.drq := rfl
@[simp] theorem State.deliverByte_rnf : (s.deliverByte).rnf = s.rnf := rfl
@[simp] theorem State.deliverByte_wp : (s.deliverByte).wp = s.wp := rfl
@[simp] theorem State.deliverByte_delay : (s.deliverByte).delay = s.delay := rfl
@[simp] theorem State.deliverByte_buf : (s.deliverByte).buf = s.buf := rfl
@[simp] theorem State.deliverByte_pos : (s.deliverByte).pos = s.pos + 1 := rfl
@[simp] theorem State.deliverByte_len : (s.deliverByte).len = s.len := rfl
@[simp] theorem State.deliverByte_ltrk : (s.deliverByte).ltrk = s.ltrk := rfl
@[simp] theorem State.deliverByte_lside : (s.deliverByte).lside = s.lside := rfl
@[simp] theorem State.deliverByte_lsec : (s.deliverByte).lsec = s.lsec := rfl
@[simp] theorem State.deliverByte_slots : (s.deliverByte).slots = s.slots := rfl
@[simp] theorem State.deliverByte_images : (s.deliverByte).images = s.images := rfl
@[simp] theorem State.deliverByte_params : (s.deliverByte).params = s.params := rfl
@[simp] theorem State.deliverByte_reply : (s.deliverByte).reply = s.reply := rfl
@[simp] theorem State.deliverByte_events : (s.deliverByte).events = s.events := rfl
@[simp] theorem State.deliverByte_hostResult : (s.deliverByte).hostResult = s.hostResult := rfl
@[simp] theorem State.deliverByte_inputs : (s.deliverByte).inputs = s.inputs := rfl

/-! ### `collectByte` -/

@[simp] theorem State.collectByte_st (v : Byte) : (s.collectByte v).st = s.st := rfl
@[simp] theorem State.collectByte_tr (v : Byte) : (s.collectByte v).tr = s.tr := rfl
@[simp] theorem State.collectByte_sr (v : Byte) : (s.collectByte v).sr = s.sr := rfl
@[simp] theorem State.collectByte_dr (v : Byte) : (s.collectByte v).dr = v := rfl
@[simp] theorem State.collectByte_cr (v : Byte) : (s.collectByte v).cr = s.cr := rfl
@[simp] theorem State.collectByte_cmdr (v : Byte) : (s.collectByte v).cmdr = s.cmdr := rfl
@[simp] theorem State.collectByte_busy (v : Byte) : (s.collectByte v).busy = s.busy := rfl
@[simp] theorem State.collectByte_drq (v : Byte) : (s.collectByte v).drq = s.drq := rfl
@[simp] theorem State.collectByte_rnf (v : Byte) : (s.collectByte v).rnf = s.rnf := rfl
@[simp] theorem State.collectByte_wp (v : Byte) : (s.collectByte v).wp = s.wp := rfl
@[simp] theorem State.collectByte_delay (v : Byte) : (s.collectByte v).delay = s.delay := rfl
@[simp] theorem State.collectByte_buf (v : Byte) : (s.collectByte v).buf = s.buf.set s.pos.toNat v := rfl
@[simp] theorem State.collectByte_pos (v : Byte) : (s.collectByte v).pos = s.pos + 1 := rfl
@[simp] theorem State.collectByte_len (v : Byte) : (s.collectByte v).len = s.len := rfl
@[simp] theorem State.collectByte_ltrk (v : Byte) : (s.collectByte v).ltrk = s.ltrk := rfl
@[simp] theorem State.collectByte_lside (v : Byte) : (s.collectByte v).lside = s.lside := rfl
@[simp] theorem State.collectByte_lsec (v : Byte) : (s.collectByte v).lsec = s.lsec := rfl
@[simp] theorem State.collectByte_slots (v : Byte) : (s.collectByte v).slots = s.slots := rfl
@[simp] theorem State.collectByte_images (v : Byte) : (s.collectByte v).images = s.images := rfl
@[simp] theorem State.collectByte_params (v : Byte) : (s.collectByte v).params = s.params := rfl
@[simp] theorem State.collectByte_reply (v : Byte) : (s.collectByte v).reply = s.reply := rfl
@[simp] theorem State.collectByte_events (v : Byte) : (s.collectByte v).events = s.events := rfl
@[simp] theorem State.collectByte_hostResult (v : Byte) : (s.collectByte v).hostResult = s.hostResult := rfl
@[simp] theorem State.collectByte_inputs (v : Byte) : (s.collectByte v).inputs = s.inputs := rfl

/-! ### Slots and images -/

@[simp] theorem Slots.get_set_same (sl : Slots) (d : Drive) (v : Option Nat) : (sl.set d v).get d = v := by
  have h := d.isLt
  unfold Slots.get Slots.set
  split <;> simp_all

theorem Slots.get_set_other (sl : Slots) (d e : Drive) (v : Option Nat) (h : e ≠ d) :
    (sl.set d v).get e = sl.get e := by
  have hd := d.isLt
  have he := e.isLt
  have hne : e.toNat ≠ d.toNat := fun c => h (BitVec.eq_of_toNat_eq c)
  unfold Slots.get Slots.set
  split <;> split <;> simp_all
  all_goals omega

/-- Clearing an empty slot changes nothing (R142). -/
theorem Slots.set_none (sl : Slots) (d : Drive) (h : sl.get d = none) : sl.set d none = sl := by
  obtain ⟨a, b, c, e⟩ := sl
  have hd : ∀ d : Drive, d = 0 ∨ d = 1 ∨ d = 2 ∨ d = 3 := by decide
  rcases hd d with hd | hd | hd | hd <;> subst hd <;> simp [Slots.get] at h <;> subst h <;> rfl

theorem Slots.holds_iff (sl : Slots) (m : Nat) : sl.holds m = true ↔ ∃ d : Drive, sl.get d = some m := by
  constructor
  · intro h
    simp only [Slots.holds, Bool.or_eq_true, beq_iff_eq] at h
    rcases h with ((h | h) | h) | h
    · exact ⟨0, h⟩
    · exact ⟨1, h⟩
    · exact ⟨2, h⟩
    · exact ⟨3, h⟩
  · rintro ⟨d, h⟩
    unfold Slots.get at h
    split at h <;> simp [Slots.holds, h]

/-- The image table after one entry is replaced. -/
theorem State.imageAt_setImage (m k : Nat) (v : Option Image) (h : m < s.images.length) :
    (s.setImage m v).imageAt k = if k = m then v else s.imageAt k := by
  unfold State.imageAt
  by_cases hk : k = m
  · subst hk; simp [h]
  · simp [hk, Ne.symm hk]

theorem State.imageAt_lt {m : Nat} {img : Image} (h : s.imageAt m = some img) : m < s.images.length := by
  unfold State.imageAt at h
  by_contra c
  simp [List.getElem?_eq_none (Nat.le_of_not_lt c)] at h

/-- The image table after one more image. -/
theorem State.imageAt_push (v : Option Image) (k : Nat) :
    ({ s with images := s.images ++ [v] } : State).imageAt k =
      if k = s.images.length then v else s.imageAt k := by
  unfold State.imageAt
  by_cases hk : k = s.images.length
  · subst hk; simp
  · rcases Nat.lt_or_gt_of_ne hk with h | h
    · simp [hk, List.getElem?_append_left h]
    · have h1 : s.images.length + 1 ≤ k := h
      simp [hk, List.getElem?_eq_none (Nat.le_of_lt h), List.getElem?_eq_none (l := s.images ++ [v]) (by simpa using h1)]

/-! ### The computed values depend on their fields only -/

@[simp] theorem State.clearOutputs_activeSlot : s.clearOutputs.activeSlot = s.activeSlot := rfl
@[simp] theorem State.clearOutputs_notReady : s.clearOutputs.notReady = s.notReady := rfl
@[simp] theorem State.clearOutputs_status : s.clearOutputs.status = s.status := rfl
@[simp] theorem State.clearOutputs_imageAt (m : Nat) : s.clearOutputs.imageAt m = s.imageAt m := rfl
@[simp] theorem State.clearOutputs_side : s.clearOutputs.side = s.side := rfl
@[simp] theorem State.clearOutputs_secIndex : s.clearOutputs.secIndex = s.secIndex := rfl
@[simp] theorem State.clearOutputs_seekDelay : s.clearOutputs.seekDelay = s.seekDelay := rfl
@[simp] theorem State.prologue_activeSlot (v : Byte) : (s.prologue v).activeSlot = s.activeSlot := rfl
@[simp] theorem State.prologue_notReady (v : Byte) : (s.prologue v).notReady = s.notReady := rfl
@[simp] theorem State.prologue_side (v : Byte) : (s.prologue v).side = s.side := rfl
@[simp] theorem State.prologue_secIndex (v : Byte) : (s.prologue v).secIndex = s.secIndex := rfl
@[simp] theorem State.prologue_seekDelay (v : Byte) : (s.prologue v).seekDelay = s.seekDelay := rfl
@[simp] theorem State.prologue_imageAt (v : Byte) (m : Nat) : (s.prologue v).imageAt m = s.imageAt m := rfl
@[simp] theorem State.collectByte_activeSlot (v : Byte) : (s.collectByte v).activeSlot = s.activeSlot := rfl
@[simp] theorem State.collectByte_imageAt (v : Byte) (m : Nat) : (s.collectByte v).imageAt m = s.imageAt m := rfl
@[simp] theorem State.clearOutputs_nextByte : s.clearOutputs.nextByte = s.nextByte := rfl
@[simp] theorem State.withInputs_activeSlot (r : List Input) : (s.withInputs r).activeSlot = s.activeSlot := rfl
@[simp] theorem State.withInputs_imageAt (r : List Input) (m : Nat) : (s.withInputs r).imageAt m = s.imageAt m := rfl

/-- The selected slot holds an open image exactly when its reference is in the table. -/
theorem State.activeSlot_image {m : Nat} {img : Image} :
    s.activeSlot = .image m img ↔ s.slots.get s.drive = some m ∧ s.imageAt m = some img := by
  unfold State.activeSlot
  split
  next h => simp [h]
  next k h =>
    split
    next j h' =>
      rw [h]
      constructor
      · intro e; cases e; exact ⟨rfl, h'⟩
      · rintro ⟨e, h2⟩; cases e; rw [h'] at h2; cases h2; rfl
    next h' =>
      rw [h]
      constructor
      · intro e; cases e
      · rintro ⟨e, h2⟩; cases e; rw [h'] at h2; cases h2

theorem State.activeSlot_empty : s.activeSlot = .empty ↔ s.slots.get s.drive = none := by
  unfold State.activeSlot
  split
  next h => simp [h]
  next k h => rw [h]; split <;> simp

theorem State.activeSlot_closed {m : Nat} :
    s.activeSlot = .closed m ↔ s.slots.get s.drive = some m ∧ s.imageAt m = none := by
  unfold State.activeSlot
  split
  next h => simp [h]
  next k h =>
    rw [h]
    split
    next j h' =>
      constructor
      · intro e; cases e
      · rintro ⟨e, h2⟩; cases e; rw [h'] at h2; cases h2
    next h' =>
      constructor
      · intro e; cases e; exact ⟨rfl, h'⟩
      · rintro ⟨e, _⟩; cases e; rfl

theorem State.notReady_iff : s.notReady = true ↔ s.activeSlot = .empty := by
  rw [State.activeSlot_empty]
  unfold State.notReady
  cases s.slots.get s.drive <;> simp

/-! ### What two states share when they agree on a few fields -/

theorem State.notReady_congr {s t : State} (hs : t.slots = s.slots) (hc : t.cr = s.cr) :
    t.notReady = s.notReady := by
  unfold State.notReady State.drive
  rw [hs, hc]

theorem State.imageAt_congr {s t : State} (hi : t.images = s.images) (m : Nat) : t.imageAt m = s.imageAt m := by
  unfold State.imageAt
  rw [hi]

theorem State.storeByte_congr {s t : State} (hi : t.images = s.images) (m a : Nat) :
    t.storeByte m a = s.storeByte m a := by
  unfold State.storeByte
  rw [State.imageAt_congr hi]

theorem State.activeSlot_congr {s t : State} (hs : t.slots = s.slots) (hc : t.cr = s.cr)
    (hi : t.images = s.images) : t.activeSlot = s.activeSlot := by
  unfold State.activeSlot State.drive State.imageAt
  rw [hs, hc, hi]

/-- The status byte from its five flags (R17). -/
theorem State.status_of {u : State} {n w r d b : Bool} (hn : u.notReady = n) (hw : u.wp = w) (hr : u.rnf = r)
    (hd : u.drq = d) (hb : u.busy = b) :
    u.status = BitVec.ofBool n ++ BitVec.ofBool w ++ 0#1 ++ BitVec.ofBool r ++ 0#1 ++ 0#1 ++
      BitVec.ofBool d ++ BitVec.ofBool b := by
  subst hn hw hr hd hb
  rfl

end Sys2Proof.Machine
end

