-- ==== Sys2Proof/Laws/Ops.lean ====
section
/-! SUPPORT. One lemma per shared operation that says everything it can do: what the state is after it, given
that it answers a next state. -/

namespace Sys2Proof.Machine

variable {s t : State}

/-- Read Sector: it opens a read transfer exactly when the sector is found, and fails otherwise (R120). -/
theorem State.rdSecBody_next (h : s.rdSecBody = .next t) :
    (∃ m img r, s.activeSlot = .image m img ∧
      readSector img s.tr.toNat s.side.toNat s.secIndex.toNat = .ok r ∧
      t = { s with buf := r }.openXfer .read 256) ∨
    (¬s.readSucceeds ∧ t = s.failWith .recordNotFound) := by
  unfold State.rdSecBody at h
  split at h
  next ha =>
    refine .inr ⟨?_, (Host.Outcome.next.inj h).symm⟩
    rintro ⟨m, img, r, h1, _⟩
    rw [ha] at h1; cases h1
  next => cases h
  next m img ha =>
    split at h
    next e hr =>
      refine .inr ⟨?_, (Host.Outcome.next.inj h).symm⟩
      rintro ⟨m', img', r, h1, h2⟩
      rw [ha] at h1; cases h1
      rw [hr] at h2; cases h2
    next r hr => exact .inl ⟨m, img, r, ha, hr, (Host.Outcome.next.inj h).symm⟩

/-- Read Sector finds its sector. -/
theorem State.rdSecBody_found {m : Nat} {img : Image} {r : List Byte} (ha : s.activeSlot = .image m img)
    (hr : readSector img s.tr.toNat s.side.toNat s.secIndex.toNat = .ok r) :
    s.rdSecBody = .next ({ s with buf := r }.openXfer .read 256) := by
  simp only [State.rdSecBody, ha, hr]

/-- Read Sector fails, the selected slot being live (R120, R183). -/
theorem State.rdSecBody_fails (hl : s.ActiveSlotLive) (hf : ¬s.readSucceeds) :
    s.rdSecBody = .next (s.failWith .recordNotFound) := by
  unfold State.rdSecBody
  split
  next => rfl
  next m ha => exact absurd ha (hl m)
  next m img ha =>
    split
    next => rfl
    next r hr => exact absurd ⟨m, img, r, ha, hr⟩ hf

/-- Write Sector: no image, then read-only, then the transfer opens (R121). -/
theorem State.wrSecBody_next (h : s.wrSecBody = .next t) :
    (s.writeOpens ∧ t = { s with
      buf := zeroBuffer, ltrk := s.tr, lside := s.side,
      lsec := s.secIndex }.openXfer .write 256) ∨
    (¬s.writeOpens ∧ ∃ f, t = s.failWith f) := by
  unfold State.wrSecBody at h
  split at h
  next ha =>
    refine .inr ⟨?_, .recordNotFound, (Host.Outcome.next.inj h).symm⟩
    rintro ⟨m, img, h1, _⟩
    rw [ha] at h1; cases h1
  next => cases h
  next m img ha =>
    split at h
    next hr =>
      refine .inr ⟨?_, .writeProtect, (Host.Outcome.next.inj h).symm⟩
      rintro ⟨m', img', h1, h2⟩
      rw [ha] at h1; cases h1
      rw [hr] at h2; cases h2
    next hr => exact .inl ⟨⟨m, img, ha, by simpa using hr⟩, (Host.Outcome.next.inj h).symm⟩

/-- Write Sector opens a transfer. -/
theorem State.wrSecBody_opens {m : Nat} {img : Image} (ha : s.activeSlot = .image m img)
    (hr : img.readOnly = false) :
    s.wrSecBody = .next ({ s with
      buf := zeroBuffer, ltrk := s.tr, lside := s.side,
      lsec := s.secIndex }.openXfer .write 256) := by
  simp only [State.wrSecBody, ha, hr, Bool.false_eq_true, if_false]

/-- Write Sector fails, the selected slot being live (R121, R183). -/
theorem State.wrSecBody_fails (hl : s.ActiveSlotLive) (hf : ¬s.writeOpens) :
    ∃ f, s.wrSecBody = .next (s.failWith f) := by
  unfold State.wrSecBody
  split
  next => exact ⟨_, rfl⟩
  next m ha => exact absurd ha (hl m)
  next m img ha =>
    split
    next => exact ⟨_, rfl⟩
    next hr => exact absurd ⟨m, img, ha, by simpa using hr⟩ hf

/-- The commit: it stores to the one image, or it records one failure; it always completes (R102). -/
theorem State.commit_next (h : s.commit = .next t) :
    (∃ m img img', s.activeSlot = .image m img ∧
      writeSector img s.ltrk.toNat s.lside.toNat s.lsec.toNat s.buf = .ok img' ∧
      t = (s.setImage m (some img')).complete) ∨
    (∃ f, t = (s.raise f).complete) := by
  unfold State.commit at h
  split at h
  next => exact .inr ⟨.recordNotFound, (Host.Outcome.next.inj h).symm⟩
  next => cases h
  next m img ha =>
    split at h
    next img' hw => exact .inl ⟨m, img, img', ha, hw, (Host.Outcome.next.inj h).symm⟩
    next e hw => exact .inr ⟨e.failure, (Host.Outcome.next.inj h).symm⟩

/-- The commit always completes where the selected slot is live. -/
theorem State.commit_live (hl : s.ActiveSlotLive) : ∃ t, s.commit = .next t := by
  unfold State.commit
  split
  next => exact ⟨_, rfl⟩
  next m ha => exact absurd ha (hl m)
  next m img ha => split <;> exact ⟨_, rfl⟩

/-- The commit with the selected slot empty. -/
theorem State.commit_empty (ha : s.activeSlot = .empty) :
    s.commit = .next (s.raise .recordNotFound).complete := by
  simp only [State.commit, ha]

/-- The commit with the selected slot holding a closed image. -/
theorem State.commit_closed {m : Nat} (ha : s.activeSlot = .closed m) : s.commit = .fault (.closedImage m) := by
  simp only [State.commit, ha]

/-- The commit that stores. -/
theorem State.commit_stores {m : Nat} {img img' : Image} (ha : s.activeSlot = .image m img)
    (hw : writeSector img s.ltrk.toNat s.lside.toNat s.lsec.toNat s.buf = .ok img') :
    s.commit = .next (s.setImage m (some img')).complete := by
  simp only [State.commit, ha, hw]

/-- The commit that fails at the image. -/
theorem State.commit_fails {m : Nat} {img : Image} {e : ImageError} (ha : s.activeSlot = .image m img)
    (hw : writeSector img s.ltrk.toNat s.lside.toNat s.lsec.toNat s.buf = .error e) :
    s.commit = .next (s.raise e.failure).complete := by
  simp only [State.commit, ha, hw]

/-- A data write: the byte alone, a byte collected, or the commit (R99). -/
theorem State.writeData_eq (s : State) (v : Byte) :
    s.writeData v =
      if s.st = .xferWrite then
        if s.pos + 1 = s.len then (s.collectByte v).commit else .next (s.collectByte v)
      else .next { s with dr := v } := by
  unfold State.writeData
  cases s.st <;> rfl

/-- A data read: `DR` alone, a byte delivered, or the last byte delivered (R93). -/
theorem State.readData_eq (s : State) :
    s.readData =
      if s.st = .xferRead then
        if s.pos + 1 = s.len then s.deliverByte.complete.answer s.nextByte
        else s.deliverByte.answer s.nextByte
      else s.answer s.dr := by
  unfold State.readData
  cases s.st
  case xferRead =>
    simp only [if_true]
    by_cases h : s.pos + 1 = s.len
    · rw [if_pos h, if_pos (show s.deliverByte.pos = s.deliverByte.len from h)]
    · rw [if_neg h, if_neg (show ¬s.deliverByte.pos = s.deliverByte.len from h)]
  all_goals rfl

theorem Ticks.saturate_eq_zero (d n : Ticks) : BitVec.ofNat 32 (d.toNat - n.toNat) = 0 ↔ d.toNat ≤ n.toNat := by
  have hd := d.isLt
  constructor
  · intro h
    have := congrArg BitVec.toNat h
    rw [BitVec.toNat_ofNat, Nat.mod_eq_of_lt (by omega)] at this
    simp at this
    omega
  · intro h
    rw [Nat.sub_eq_zero_of_le h]
    rfl

theorem Ticks.toNat_saturate (d n : Ticks) : (BitVec.ofNat 32 (d.toNat - n.toNat)).toNat = d.toNat - n.toNat := by
  have hd := d.isLt
  rw [BitVec.toNat_ofNat, Nat.mod_eq_of_lt (by omega)]

/-- A tick: it ends a running command when the delay is used up, and counts otherwise (R140). -/
theorem State.tickBody_eq (s : State) (n : Ticks) :
    s.tickBody n =
      if s.st = .busy ∧ s.delay.toNat ≤ n.toNat then { s with delay := 0 }.complete
      else { s with delay := BitVec.ofNat 32 (s.delay.toNat - n.toNat) } := by
  unfold State.tickBody
  simp only [Ticks.saturate_eq_zero]
  split
  next h => rfl
  next h => rfl

/-! ### Every command by its class (R96) -/

theorem State.writeCommand_cases (s : State) (v : Byte) :
    (commandClass v = .restore ∧ s.writeCommand v = .next (s.prologue v).restoreBody) ∨
    (commandClass v = .seek ∧ s.writeCommand v = .next (s.prologue v).seekBody) ∨
    (commandClass v = .step ∧ s.writeCommand v = .next (s.prologue v).stepBody) ∨
    (commandClass v = .stepIn ∧ s.writeCommand v = .next (s.prologue v).stepInBody) ∨
    (commandClass v = .stepOut ∧ s.writeCommand v = .next (s.prologue v).stepOutBody) ∨
    (commandClass v = .rdSec ∧ s.writeCommand v = (s.prologue v).rdSecBody) ∨
    (commandClass v = .wrSec ∧ s.writeCommand v = (s.prologue v).wrSecBody) ∨
    (commandClass v = .rdAddr ∧ s.writeCommand v = .next (s.prologue v).rdAddrBody) ∨
    (commandClass v = .forceInt ∧ s.writeCommand v = .next ((s.prologue v).forceIntBody (v.getLsbD 3))) ∨
    (commandClass v = .other ∧ s.writeCommand v = .next (s.prologue v).otherBody) := by
  unfold State.writeCommand
  cases h : commandClass v <;> simp [immediateBit]

/-- The type I bodies are one shape: the track moves, the delay is loaded. -/
theorem State.typeOne_eq (s : State) (v : Byte) (h : isTypeOne (commandClass v) = true) :
    ∃ (track : Byte) (d : Ticks), s.writeCommand v = .next ({ s.prologue v with tr := track }.enterBusy d) ∧
      (s.params.Valid → 1 ≤ d.toNat) ∧
      (commandClass v = .step → track = s.tr) := by
  have hseek : s.params.Valid → 1 ≤ s.seekDelay.toNat := by
    rintro ⟨_, h2, _, h4, _⟩
    have ht := s.tr.isLt
    have hd := s.dr.isLt
    have hb : s.seekDistance ≤ 255 := by
      unfold State.seekDistance
      split <;> omega
    have hm : s.seekDistance * s.params.delaySeekPerTrack.toNat ≤ 255 * s.params.delaySeekPerTrack.toNat :=
      Nat.mul_le_mul_right _ hb
    unfold State.seekDelay
    rw [BitVec.toNat_ofNat, Nat.mod_eq_of_lt (by omega)]
    omega
  unfold State.writeCommand
  cases hc : commandClass v <;> rw [hc] at h <;> simp [isTypeOne] at h
  · exact ⟨0, s.params.delayRestore, rfl, fun hv => hv.1, by simp⟩
  · exact ⟨s.dr, s.seekDelay, rfl, hseek, by simp⟩
  · exact ⟨s.tr, s.params.delayStep, rfl, fun hv => hv.2.2.1, by simp⟩
  · exact ⟨_, s.params.delayStep, rfl, fun hv => hv.2.2.1, by simp⟩
  · exact ⟨_, s.params.delayStep, rfl, fun hv => hv.2.2.1, by simp⟩

end Sys2Proof.Machine
end

