-- ==== Sys2Proof/Laws/Shape.lean ====
section
/-! SUPPORT. The 32 operations do twelve different things. `shapeOf` says which of them an operation does, and
`exec_eq_runShape` says it once, so that a rule about all operations needs twelve cases and not 32. -/

namespace Sys2Proof.Machine

/-- What an operation does. -/
inductive Shape where
  | command (v : Byte)
  | read (r : Select)
  | dataRead
  | setTrack (v : Byte)
  | setSector (v : Byte)
  | dataWrite (v : Byte)
  | setControl (v : Byte)
  | nothing
  | tick (n : Ticks)
  | attach (d : Drive) (m : BitVec 32)
  | detach (d : Drive)
  | reset

/-- The shape of a bus write. -/
def writeShape (r : Select) (v : Byte) : Shape :=
  match r.toNat with
  | 0 => .command v
  | 1 => .setTrack v
  | 2 => .setSector v
  | 3 => .dataWrite v
  | 4 => .setControl v
  | _ => .nothing

/-- The shape of an operation. -/
def shapeOf : Instr → Shape
  | .restore x => .command (0x0#4 ++ x)
  | .seek x => .command (0x1#4 ++ x)
  | .step x => .command (0b001#3 ++ x)
  | .stepIn x => .command (0b010#3 ++ x)
  | .stepOut x => .command (0b011#3 ++ x)
  | .rdSec x => .command (0b100#3 ++ x)
  | .wrSec x => .command (0b101#3 ++ x)
  | .rdAddr x => .command (0xC#4 ++ x)
  | .forceInt i x => .command (0xD#4 ++ (BitVec.ofBool i ++ x))
  | .other x => .command (0b111#3 ++ x)
  | .rdStatus _ => .read 0
  | .rdTrack _ => .read 1
  | .rdSector _ => .read 2
  | .rdData _ => .dataRead
  | .rdControl _ => .read 4
  | .rdUnmapped5 _ => .read 5
  | .rdUnmapped6 _ => .read 6
  | .rdUnmapped7 _ => .read 7
  | .wrCmd v => .command v
  | .wrTrack v => .setTrack v
  | .wrSector v => .setSector v
  | .wrData v => .dataWrite v
  | .wrControl v => .setControl v
  | .wrUnmapped5 _ => .nothing
  | .wrUnmapped6 _ => .nothing
  | .wrUnmapped7 _ => .nothing
  | .stimRd r => if r = 3 then .dataRead else .read r
  | .stimWr r v => writeShape r v
  | .tick n => .tick n
  | .attach d m => .attach d m
  | .detach d => .detach d
  | .reset => .reset

/-- The byte a read without side effect returns (R71). -/
def State.readValue (s : State) (r : Select) : Byte :=
  match r.toNat with
  | 0 => s.status
  | 1 => s.tr
  | 2 => s.sr
  | 4 => s.cr
  | _ => 0xFF

/-- What a shape does. -/
def runShape (sh : Shape) (s : State) : Host.Outcome State Fault Refusal :=
  match sh with
  | .command v => s.clearOutputs.writeCommand v
  | .read r => .next (s.clearOutputs.answer (s.readValue r))
  | .dataRead => .next s.clearOutputs.readData
  | .setTrack v => .next (s.clearOutputs.writeTrack v)
  | .setSector v => .next (s.clearOutputs.writeSectorReg v)
  | .dataWrite v => s.clearOutputs.writeData v
  | .setControl v => .next (s.clearOutputs.writeControl v)
  | .nothing => .next s.clearOutputs
  | .tick n => .next (s.clearOutputs.tickBody n)
  | .attach d m => .next (s.clearOutputs.attachBody d m.toNat)
  | .detach d => .next (s.clearOutputs.detachBody d)
  | .reset => .next s.clearOutputs.resetBody

theorem select_cases (r : Select) : r = 0 ∨ r = 1 ∨ r = 2 ∨ r = 3 ∨ r = 4 ∨ r = 5 ∨ r = 6 ∨ r = 7 := by
  revert r; decide

/-- Every operation is its shape. -/
theorem exec_eq_runShape (i : Instr) (s : State) : exec i s = runShape (shapeOf i) s := by
  obtain ⟨h1, h2, h3, h4, h5, h6, h7, h8, h9, h10⟩ := commandClass_append
  cases i with
  | restore x => simp [exec, execRestore, shapeOf, runShape, State.writeCommand, h1]
  | seek x => simp [exec, execSeek, shapeOf, runShape, State.writeCommand, h2]
  | step x => simp [exec, execStep, shapeOf, runShape, State.writeCommand, h3]
  | stepIn x => simp [exec, execStepIn, shapeOf, runShape, State.writeCommand, h4]
  | stepOut x => simp [exec, execStepOut, shapeOf, runShape, State.writeCommand, h5]
  | rdSec x => simp [exec, execRdSec, shapeOf, runShape, State.writeCommand, h6]
  | wrSec x => simp [exec, execWrSec, shapeOf, runShape, State.writeCommand, h7]
  | rdAddr x => simp [exec, execRdAddr, shapeOf, runShape, State.writeCommand, h8]
  | forceInt i x =>
    simp only [exec, execForceInt, shapeOf, runShape, State.writeCommand, h9]
    rw [immediateBit_append]
  | other x => simp [exec, execOther, shapeOf, runShape, State.writeCommand, h10]
  | stimRd r => rcases select_cases r with h | h | h | h | h | h | h | h <;> subst h <;> rfl
  | stimWr r v => rcases select_cases r with h | h | h | h | h | h | h | h <;> subst h <;> rfl
  | _ => rfl

/-- The command byte of an operation is the byte its shape writes to `COMMAND`. -/
theorem commandByteOf_eq (i : Instr) :
    commandByteOf i = match shapeOf i with
      | .command v => some v
      | _ => none := by
  have hb : ∀ (k : BitVec 4) (d : Byte), k ≠ 0x8 → commandByteOf (busRow k d) = none := fun k d h => by
    rw [commandByteOf_bus, if_neg h]
  cases i with
  | rdStatus d => exact hb 0x0 d (by decide)
  | rdTrack d => exact hb 0x1 d (by decide)
  | rdSector d => exact hb 0x2 d (by decide)
  | rdData d => exact hb 0x3 d (by decide)
  | rdControl d => exact hb 0x4 d (by decide)
  | rdUnmapped5 d => exact hb 0x5 d (by decide)
  | rdUnmapped6 d => exact hb 0x6 d (by decide)
  | rdUnmapped7 d => exact hb 0x7 d (by decide)
  | wrCmd v => exact commandByteOf_wrCmd v
  | wrTrack d => exact hb 0x9 d (by decide)
  | wrSector d => exact hb 0xA d (by decide)
  | wrData d => exact hb 0xB d (by decide)
  | wrControl d => exact hb 0xC d (by decide)
  | wrUnmapped5 d => exact hb 0xD d (by decide)
  | wrUnmapped6 d => exact hb 0xE d (by decide)
  | wrUnmapped7 d => exact hb 0xF d (by decide)
  | stimRd r => revert r; decide
  | stimWr r v =>
    rw [commandByteOf_stimWr]
    rcases select_cases r with h | h | h | h | h | h | h | h <;> subst h <;> rfl
  | tick n =>
    unfold commandByteOf encode
    simp only [(stimulus_head _ _ _).1, shapeOf]
    rfl
  | attach d m =>
    have h : ∀ d : Drive, (0x3#4 ++ (0#2 ++ d) : BitVec 8) ≠ 16#8 := by decide
    unfold commandByteOf encode
    simp only [(stimulus_head _ _ _).1, shapeOf]
    exact if_neg (h d)
  | detach d => revert d; decide
  | reset => rfl
  | _ => rfl

/-- The data byte of an operation is the byte its shape writes to `DATA`. -/
theorem dataByteOf_eq (i : Instr) :
    dataByteOf i = match shapeOf i with
      | .dataWrite v => some v
      | _ => none := by
  have hb : ∀ (k : BitVec 4) (d : Byte), k ≠ 0xB → dataByteOf (busRow k d) = none := fun k d h => by
    rw [dataByteOf_bus, if_neg h]
  cases i with
  | rdStatus d => exact hb 0x0 d (by decide)
  | rdTrack d => exact hb 0x1 d (by decide)
  | rdSector d => exact hb 0x2 d (by decide)
  | rdData d => exact hb 0x3 d (by decide)
  | rdControl d => exact hb 0x4 d (by decide)
  | rdUnmapped5 d => exact hb 0x5 d (by decide)
  | rdUnmapped6 d => exact hb 0x6 d (by decide)
  | rdUnmapped7 d => exact hb 0x7 d (by decide)
  | wrCmd d => exact hb 0x8 d (by decide)
  | wrTrack d => exact hb 0x9 d (by decide)
  | wrSector d => exact hb 0xA d (by decide)
  | wrData v => exact dataByteOf_wrData v
  | wrControl d => exact hb 0xC d (by decide)
  | wrUnmapped5 d => exact hb 0xD d (by decide)
  | wrUnmapped6 d => exact hb 0xE d (by decide)
  | wrUnmapped7 d => exact hb 0xF d (by decide)
  | stimRd r => revert r; decide
  | stimWr r v =>
    rw [dataByteOf_stimWr]
    rcases select_cases r with h | h | h | h | h | h | h | h <;> subst h <;> rfl
  | tick n =>
    unfold dataByteOf encode
    simp only [(stimulus_head _ _ _).1, shapeOf]
    rfl
  | attach d m =>
    have h : ∀ d : Drive, (0x3#4 ++ (0#2 ++ d) : BitVec 8) ≠ 19#8 := by decide
    unfold dataByteOf encode
    simp only [(stimulus_head _ _ _).1, shapeOf]
    exact if_neg (h d)
  | detach d => revert d; decide
  | reset => rfl
  | _ => rfl

theorem commandByteOf_iff (i : Instr) (v : Byte) : commandByteOf i = some v ↔ shapeOf i = .command v := by
  rw [commandByteOf_eq]
  cases shapeOf i <;> simp

theorem dataByteOf_iff (i : Instr) (v : Byte) : dataByteOf i = some v ↔ shapeOf i = .dataWrite v := by
  rw [dataByteOf_eq]
  cases shapeOf i <;> simp

/-- The operations of the shapes that are not commands, plain reads or dropped writes. -/
theorem shapeOf_iff (i : Instr) :
    (readsData i ↔ shapeOf i = .dataRead) ∧
    (∀ n, i = .tick n ↔ shapeOf i = .tick n) ∧
    (∀ d m, i = .attach d m ↔ shapeOf i = .attach d m) ∧
    (∀ d, i = .detach d ↔ shapeOf i = .detach d) ∧
    (i = .reset ↔ shapeOf i = .reset) ∧
    (∀ v, (i = .wrTrack v ∨ i = .stimWr 1 v) ↔ shapeOf i = .setTrack v) ∧
    (∀ v, (i = .wrSector v ∨ i = .stimWr 2 v) ↔ shapeOf i = .setSector v) ∧
    (∀ v, (i = .wrControl v ∨ i = .stimWr 4 v) ↔ shapeOf i = .setControl v) := by
  cases i with
  | stimRd r =>
    rcases select_cases r with h | h | h | h | h | h | h | h <;> subst h <;> simp [shapeOf, readsData]
  | stimWr r v =>
    rcases select_cases r with h | h | h | h | h | h | h | h <;> subst h <;>
      simp [shapeOf, readsData, writeShape]
  | _ => simp [shapeOf, readsData]

/-! ### A data access, case by case (R93, R99) -/

section

variable {i : Instr} {v : Byte} (s : State)

/-- Outside a write transfer a data write goes to `DR` only. -/
theorem exec_dataWrite_plain (hi : dataByteOf i = some v) (hst : s.st ≠ .xferWrite) :
    exec i s = .next { s.clearOutputs with dr := v } := by
  rw [exec_eq_runShape, (dataByteOf_iff i v).1 hi]
  simp only [runShape, State.writeData_eq]
  rw [if_neg (show ¬s.clearOutputs.st = .xferWrite from hst)]

/-- A data write that is not the last of its transfer collects a byte. -/
theorem exec_dataWrite_collect (hi : dataByteOf i = some v) (hst : s.st = .xferWrite)
    (hp : s.pos + 1 ≠ s.len) :
    exec i s = .next (s.clearOutputs.collectByte v) := by
  rw [exec_eq_runShape, (dataByteOf_iff i v).1 hi]
  simp only [runShape, State.writeData_eq]
  rw [if_pos (show s.clearOutputs.st = .xferWrite from hst),
    if_neg (show ¬s.clearOutputs.pos + 1 = s.clearOutputs.len from hp)]

/-- The last data write of a transfer commits. -/
theorem exec_dataWrite_commit (hi : dataByteOf i = some v) (hst : s.st = .xferWrite)
    (hp : s.pos + 1 = s.len) :
    exec i s = (s.clearOutputs.collectByte v).commit := by
  rw [exec_eq_runShape, (dataByteOf_iff i v).1 hi]
  simp only [runShape, State.writeData_eq]
  rw [if_pos (show s.clearOutputs.st = .xferWrite from hst),
    if_pos (show s.clearOutputs.pos + 1 = s.clearOutputs.len from hp)]

/-- Outside a read transfer a data read returns `DR`. -/
theorem exec_dataRead_plain (hi : readsData i) (hst : s.st ≠ .xferRead) :
    exec i s = .next (s.clearOutputs.answer s.dr) := by
  rw [exec_eq_runShape, (shapeOf_iff i).1.1 hi]
  simp only [runShape, State.readData_eq]
  rw [if_neg (show ¬s.clearOutputs.st = .xferRead from hst)]
  rfl

/-- A data read that is not the last of its transfer delivers a byte. -/
theorem exec_dataRead_deliver (hi : readsData i) (hst : s.st = .xferRead) (hp : s.pos + 1 ≠ s.len) :
    exec i s = .next (s.clearOutputs.deliverByte.answer s.nextByte) := by
  rw [exec_eq_runShape, (shapeOf_iff i).1.1 hi]
  simp only [runShape, State.readData_eq]
  rw [if_pos (show s.clearOutputs.st = .xferRead from hst),
    if_neg (show ¬s.clearOutputs.pos + 1 = s.clearOutputs.len from hp)]
  rfl

/-- The last data read of a transfer delivers its byte and completes. -/
theorem exec_dataRead_last (hi : readsData i) (hst : s.st = .xferRead) (hp : s.pos + 1 = s.len) :
    exec i s = .next (s.clearOutputs.deliverByte.complete.answer s.nextByte) := by
  rw [exec_eq_runShape, (shapeOf_iff i).1.1 hi]
  simp only [runShape, State.readData_eq]
  rw [if_pos (show s.clearOutputs.st = .xferRead from hst),
    if_pos (show s.clearOutputs.pos + 1 = s.clearOutputs.len from hp)]
  rfl

/-- A tick that uses the delay up ends the running command (R140). -/
theorem exec_tick_expires {n : Ticks} (hst : s.st = .busy) (h : s.delay.toNat ≤ n.toNat) :
    exec (.tick n) s = .next s.clearOutputs.complete := by
  show Host.Outcome.next (s.clearOutputs.tickBody n) = _
  rw [State.tickBody_eq, if_pos (show s.clearOutputs.st = .busy ∧ s.clearOutputs.delay.toNat ≤ n.toNat from ⟨hst, h⟩)]
  rfl

/-- Any other tick only counts (R140). -/
theorem exec_tick_counts {n : Ticks} (h : ¬(s.st = .busy ∧ s.delay.toNat ≤ n.toNat)) :
    exec (.tick n) s = .next { s.clearOutputs with delay := BitVec.ofNat 32 (s.delay.toNat - n.toNat) } := by
  show Host.Outcome.next (s.clearOutputs.tickBody n) = _
  rw [State.tickBody_eq, if_neg (show ¬(s.clearOutputs.st = .busy ∧ s.clearOutputs.delay.toNat ≤ n.toNat) from h)]
  rfl

end

end Sys2Proof.Machine
end

