-- ==== Sys2Proof/Laws/Invariant.lean ====
section
/-! SUPPORT. Small lemmas about the parts of `State.Inv`: what an operation that leaves the slots, the images and
the parameters alone has to show, and what storing one image keeps. -/

namespace Sys2Proof.Machine

/-- An operation that leaves the parameters, the slots and the images alone keeps the invariant if it keeps its
sequencer part. -/
theorem State.Inv.of_same {s t : State} (h : s.Inv) (hp : t.params = s.params) (hs : t.slots = s.slots)
    (hi : t.images = s.images) (hq : t.SequencerSound) : t.Inv := by
  refine ⟨by rw [hp]; exact h.params, hq, fun d m hd => ?_, fun m img hm => ?_⟩
  · rw [hs] at hd
    rw [State.imageAt_congr hi]
    exact h.slots d m hd
  · rw [State.imageAt_congr hi] at hm
    exact h.images m img hm

/-- Every state that meets the invariant has a live selected slot. -/
theorem State.Inv.activeSlotLive {s : State} (h : s.Inv) : s.ActiveSlotLive := by
  intro m hm
  obtain ⟨h1, h2⟩ := (State.activeSlot_closed s).1 hm
  have := h.slots _ _ h1
  rw [h2] at this
  cases this

/-- The sequencer part of the invariant in `Idle`. -/
theorem State.sequencerSound_of_idle {s : State} (hst : s.st = .idle) (hb : s.busy = false) (hd : s.drq = false)
    (hdl : s.delay = 0) (hp : s.pos.toNat ≤ s.len.toNat) (hl : s.len = 0 ∨ s.len = 6 ∨ s.len = 256)
    (hbuf : s.buf.length = 256) (hf : ¬(s.rnf = true ∧ s.wp = true)) : s.SequencerSound := by
  refine ⟨fun _ => ⟨hb, hd, hdl⟩, ?_, ?_, ?_, hp, fun _ => hst, hl, hbuf, hf⟩ <;> simp [hst]

/-- Inside a transfer the position counts up by one without wrapping (R18, R20). -/
theorem BufCount.toNat_next {p l : BufCount} (h : p.toNat < l.toNat) : (p + 1).toNat = p.toNat + 1 := by
  have := l.isLt
  rw [BitVec.toNat_add]
  simp
  omega

/-- Putting a sound image back keeps the slots live and the images sound. -/
theorem State.inv_setImage {s : State} {m : Nat} {img img' : Image} (hm : s.imageAt m = some img)
    (hs : s.SlotsLive) (hi : s.ImagesSound) (h' : img'.Sound) :
    (s.setImage m (some img')).SlotsLive ∧ (s.setImage m (some img')).ImagesSound := by
  have hlt := State.imageAt_lt s hm
  refine ⟨fun d k hd => ?_, fun k im hk => ?_⟩
  · rw [State.imageAt_setImage s m k _ hlt]
    split
    · rfl
    · exact hs d k hd
  · rw [State.imageAt_setImage s m k _ hlt] at hk
    split at hk
    · cases hk; exact h'
    · exact hi k im hk

end Sys2Proof.Machine
end

