-- ==== Sys2Proof/Laws/Inversion.lean ====
section
/-! SUPPORT. What an operation that answers a next state can have done, said once: every case with its guard
and the state it leaves. The rules about all operations are case analyses over these lemmas. -/

namespace Sys2Proof.Machine

variable {s t : State}

theorem State.readSucceeds_congr (hs : t.slots = s.slots) (hc : t.cr = s.cr) (hi : t.images = s.images)
    (ht : t.tr = s.tr) (hr : t.sr = s.sr) (hp : t.params = s.params) : t.readSucceeds ↔ s.readSucceeds := by
  have e1 : t.side = s.side := by unfold State.side; rw [hc, hp]
  have e2 : t.secIndex = s.secIndex := by unfold State.secIndex; rw [hr]
  unfold State.readSucceeds
  rw [State.activeSlot_congr hs hc hi, e1, e2, ht]

theorem State.writeOpens_congr (hs : t.slots = s.slots) (hc : t.cr = s.cr) (hi : t.images = s.images) :
    t.writeOpens ↔ s.writeOpens := by
  unfold State.writeOpens
  rw [State.activeSlot_congr hs hc hi]

/-- The eight outcomes of a command write, by class (R166). -/
inductive CommandCase (s t : State) (v : Byte) : Prop where
  | typeOne (class_ : isTypeOne (commandClass v) = true) (st : t.st = .busy) (events : t.events = [])
      (drq : t.drq = false) (rnf : t.rnf = false) (wp : t.wp = false) (buf : t.buf = s.buf)
  | readOpens (class_ : commandClass v = .rdSec) (cond : s.readSucceeds) (st : t.st = .xferRead)
      (events : t.events = [.drqEv]) (drq : t.drq = true) (rnf : t.rnf = false) (wp : t.wp = false)
  | readFails (class_ : commandClass v = .rdSec) (cond : ¬s.readSucceeds) (st : t.st = .idle)
      (events : t.events = [.irq]) (drq : t.drq = false) (busy : t.busy = false) (delay : t.delay = 0)
      (buf : t.buf = s.buf)
  | writeOpens (class_ : commandClass v = .wrSec) (cond : s.writeOpens) (st : t.st = .xferWrite)
      (events : t.events = [.drqEv]) (drq : t.drq = true) (rnf : t.rnf = false) (wp : t.wp = false)
  | writeFails (class_ : commandClass v = .wrSec) (cond : ¬s.writeOpens) (st : t.st = .idle)
      (events : t.events = [.irq]) (drq : t.drq = false) (busy : t.busy = false) (delay : t.delay = 0)
      (buf : t.buf = s.buf)
  | address (class_ : commandClass v = .rdAddr) (st : t.st = .xferRead) (events : t.events = [.drqEv])
      (drq : t.drq = true) (rnf : t.rnf = false) (wp : t.wp = false)
  | forceInt (class_ : commandClass v = .forceInt) (st : t.st = .idle)
      (events : t.events = if v.getLsbD 3 then [.irq] else []) (drq : t.drq = false) (rnf : t.rnf = false)
      (wp : t.wp = false) (buf : t.buf = s.buf)
  | other (class_ : commandClass v = .other) (st : t.st = .idle) (events : t.events = [])
      (drq : t.drq = false) (rnf : t.rnf = false) (wp : t.wp = false) (buf : t.buf = s.buf)

theorem writeCommand_case {v : Byte} (ht : s.clearOutputs.writeCommand v = .next t) : CommandCase s t v := by
  have hr : (s.clearOutputs.prologue v).readSucceeds ↔ s.readSucceeds :=
    State.readSucceeds_congr rfl rfl rfl rfl rfl rfl
  have hw : (s.clearOutputs.prologue v).writeOpens ↔ s.writeOpens := State.writeOpens_congr rfl rfl rfl
  by_cases ho : isTypeOne (commandClass v) = true
  · obtain ⟨tr, d, e, _⟩ := State.typeOne_eq s.clearOutputs v ho
    rw [e] at ht
    cases ht
    exact .typeOne ho rfl rfl rfl rfl rfl rfl
  rcases State.writeCommand_cases s.clearOutputs v with ⟨c, e⟩ | ⟨c, e⟩ | ⟨c, e⟩ | ⟨c, e⟩ | ⟨c, e⟩ | ⟨c, e⟩ |
    ⟨c, e⟩ | ⟨c, e⟩ | ⟨c, e⟩ | ⟨c, e⟩ <;> rw [e] at ht
  iterate 5 (rw [c] at ho; exact absurd rfl ho)
  · rcases State.rdSecBody_next ht with ⟨m, img, r, ha, hr', rfl⟩ | ⟨h, rfl⟩
    · exact .readOpens c (hr.1 ⟨m, img, r, ha, hr'⟩) rfl rfl rfl rfl rfl
    · exact .readFails c (fun x => h (hr.2 x)) rfl rfl rfl rfl rfl rfl
  · rcases State.wrSecBody_next ht with ⟨h, rfl⟩ | ⟨h, f, rfl⟩
    · exact .writeOpens c (hw.1 h) rfl rfl rfl rfl rfl
    · exact .writeFails c (fun x => h (hw.2 x)) (by simp) (by simp) (by simp) (by simp) (by simp) (by simp)
  · cases ht
    exact .address c rfl rfl rfl rfl rfl
  · cases ht
    refine .forceInt c ?_ ?_ ?_ ?_ ?_ ?_ <;> cases v.getLsbD 3 <;> rfl
  · cases ht
    exact .other c rfl rfl rfl rfl rfl rfl

/-- What no command write touches. -/
theorem writeCommand_frame {v : Byte} (ht : s.clearOutputs.writeCommand v = .next t) :
    t.slots = s.slots ∧ t.images = s.images ∧ t.sr = s.sr ∧ t.dr = s.dr ∧ t.cr = s.cr ∧ t.params = s.params ∧
      t.inputs = s.inputs ∧ t.cmdr = v ∧ t.reply = none ∧ t.hostResult = none := by
  rcases State.writeCommand_cases s.clearOutputs v with ⟨c, e⟩ | ⟨c, e⟩ | ⟨c, e⟩ | ⟨c, e⟩ | ⟨c, e⟩ | ⟨c, e⟩ |
    ⟨c, e⟩ | ⟨c, e⟩ | ⟨c, e⟩ | ⟨c, e⟩ <;> rw [e] at ht
  case inr.inr.inr.inr.inr.inl =>
    rcases State.rdSecBody_next ht with ⟨m, img, r, ha, hr, rfl⟩ | ⟨_, rfl⟩ <;> simp
  case inr.inr.inr.inr.inr.inr.inl =>
    rcases State.wrSecBody_next ht with ⟨_, rfl⟩ | ⟨_, f, rfl⟩ <;> simp
  case inr.inr.inr.inr.inr.inr.inr.inr.inl =>
    cases ht
    cases v.getLsbD 3 <;> simp [State.forceIntBody]
  all_goals (cases ht; exact ⟨rfl, rfl, rfl, rfl, rfl, rfl, rfl, rfl, rfl, rfl⟩)

/-- Every way an operation answers a next state, by its shape. -/
inductive ExecCase (s t : State) : Shape → Prop where
  | command (v : Byte) (next : s.clearOutputs.writeCommand v = .next t) : ExecCase s t (.command v)
  | read (r : Select) (v : Byte) (eq : t = s.clearOutputs.answer v) : ExecCase s t (.read r)
  | readPlain (st : s.st ≠ .xferRead) (eq : t = s.clearOutputs.answer s.dr) : ExecCase s t .dataRead
  | readDeliver (st : s.st = .xferRead) (pos : s.pos + 1 ≠ s.len)
      (eq : t = s.clearOutputs.deliverByte.answer s.nextByte) : ExecCase s t .dataRead
  | readLast (st : s.st = .xferRead) (pos : s.pos + 1 = s.len)
      (eq : t = s.clearOutputs.deliverByte.complete.answer s.nextByte) : ExecCase s t .dataRead
  | setTrack (v : Byte) (eq : t = s.clearOutputs.writeTrack v) : ExecCase s t (.setTrack v)
  | setSector (v : Byte) (eq : t = s.clearOutputs.writeSectorReg v) : ExecCase s t (.setSector v)
  | writePlain (v : Byte) (st : s.st ≠ .xferWrite) (eq : t = { s.clearOutputs with dr := v }) :
      ExecCase s t (.dataWrite v)
  | writeCollect (v : Byte) (st : s.st = .xferWrite) (pos : s.pos + 1 ≠ s.len)
      (eq : t = s.clearOutputs.collectByte v) : ExecCase s t (.dataWrite v)
  | writeCommit (v : Byte) (st : s.st = .xferWrite) (pos : s.pos + 1 = s.len)
      (next : (s.clearOutputs.collectByte v).commit = .next t) : ExecCase s t (.dataWrite v)
  | setControl (v : Byte) (eq : t = s.clearOutputs.writeControl v) : ExecCase s t (.setControl v)
  | nothing (eq : t = s.clearOutputs) : ExecCase s t .nothing
  | tickExpires (n : Ticks) (st : s.st = .busy) (le : s.delay.toNat ≤ n.toNat)
      (eq : t = s.clearOutputs.complete) : ExecCase s t (.tick n)
  | tickCounts (n : Ticks) (not_ : ¬(s.st = .busy ∧ s.delay.toNat ≤ n.toNat))
      (eq : t = { s.clearOutputs with delay := BitVec.ofNat 32 (s.delay.toNat - n.toNat) }) :
      ExecCase s t (.tick n)
  | attach (d : Drive) (m : BitVec 32) (eq : t = s.clearOutputs.attachBody d m.toNat) :
      ExecCase s t (.attach d m)
  | detach (d : Drive) (eq : t = s.clearOutputs.detachBody d) : ExecCase s t (.detach d)
  | reset (eq : t = s.clearOutputs.resetBody) : ExecCase s t .reset

theorem exec_case {i : Instr} (h : exec i s = .next t) : ExecCase s t (shapeOf i) := by
  have h0 := h
  rw [exec_eq_runShape] at h
  cases hsh : shapeOf i <;> rw [hsh] at h <;> simp only [runShape] at h
  case command v => exact .command v h
  case dataRead =>
    have hi := (shapeOf_iff i).1.2 hsh
    by_cases hst : s.st = .xferRead
    · by_cases hp : s.pos + 1 = s.len
      · rw [exec_dataRead_last s hi hst hp] at h0; cases h0; exact .readLast hst hp rfl
      · rw [exec_dataRead_deliver s hi hst hp] at h0; cases h0; exact .readDeliver hst hp rfl
    · rw [exec_dataRead_plain s hi hst] at h0; cases h0; exact .readPlain hst rfl
  case dataWrite v =>
    have hi := (dataByteOf_iff i v).2 hsh
    by_cases hst : s.st = .xferWrite
    · by_cases hp : s.pos + 1 = s.len
      · rw [exec_dataWrite_commit s hi hst hp] at h0; exact .writeCommit v hst hp h0
      · rw [exec_dataWrite_collect s hi hst hp] at h0; cases h0; exact .writeCollect v hst hp rfl
    · rw [exec_dataWrite_plain s hi hst] at h0; cases h0; exact .writePlain v hst rfl
  case tick n =>
    have hi := ((shapeOf_iff i).2.1 n).2 hsh
    subst hi
    by_cases hst : s.st = .busy ∧ s.delay.toNat ≤ n.toNat
    · rw [exec_tick_expires s hst.1 hst.2] at h0; cases h0; exact .tickExpires n hst.1 hst.2 rfl
    · rw [exec_tick_counts s hst] at h0; cases h0; exact .tickCounts n hst rfl
  case read r => cases h; exact .read r _ rfl
  case setTrack v => cases h; exact .setTrack v rfl
  case setSector v => cases h; exact .setSector v rfl
  case setControl v => cases h; exact .setControl v rfl
  case nothing => cases h; exact .nothing rfl
  case attach d m => cases h; exact .attach d m rfl
  case detach d => cases h; exact .detach d rfl
  case reset => cases h; exact .reset rfl

/-- What a commit touches: the flags and the sequencer as `COMPLETE()` says, one failure flag, or the one
image (R102, R103). -/
theorem commit_frame (h : s.commit = .next t) (he : s.events = []) :
    t.st = .idle ∧ t.events = [.irq] ∧ t.busy = false ∧ t.drq = false ∧ t.delay = 0 ∧ t.tr = s.tr ∧
      t.sr = s.sr ∧ t.dr = s.dr ∧ t.cr = s.cr ∧ t.cmdr = s.cmdr ∧ t.buf = s.buf ∧ t.pos = s.pos ∧
      t.len = s.len ∧ t.ltrk = s.ltrk ∧ t.lside = s.lside ∧ t.lsec = s.lsec ∧ t.slots = s.slots ∧
      t.params = s.params ∧ t.inputs = s.inputs := by
  rcases State.commit_next h with ⟨m, img, img', ha, hw, rfl⟩ | ⟨f, rfl⟩
  · refine ⟨rfl, by simp [he], rfl, rfl, rfl, rfl, rfl, rfl, rfl, rfl, rfl, rfl, rfl, rfl, rfl, rfl, rfl, rfl,
      rfl⟩
  · cases f <;> refine ⟨rfl, by simp [he], rfl, rfl, rfl, rfl, rfl, rfl, rfl, rfl, rfl, rfl, rfl, rfl, rfl, rfl,
      rfl, rfl, rfl⟩

/-! ### Programs -/

theorem perform_cons {u : State} {i : Instr} {is : List Instr} {out : List (Option Byte × List Event)}
    (h : exec i s = .next t) (h2 : t.perform is = some (u, out)) :
    s.perform (i :: is) = some (u, (t.reply, t.events) :: out) := by
  simp only [State.perform, h, h2]

theorem perform_append {is js : List Instr} {out : List (Option Byte × List Event)}
    (h : s.perform is = some (t, out)) :
    s.perform (is ++ js) = (t.perform js).map fun p => (p.1, out ++ p.2) := by
  induction is generalizing s out with
  | nil =>
    simp only [State.perform, Option.some.injEq, Prod.mk.injEq] at h
    obtain ⟨rfl, rfl⟩ := h
    simp
  | cons i is ih =>
    simp only [State.perform, List.cons_append] at h ⊢
    split at h
    · next u hu =>
      split at h
      · next v o hv =>
        cases h
        rw [ih hv]
        cases t.perform js <;> simp
      · cases h
    · cases h
    · cases h

end Sys2Proof.Machine
end

