-- ==== Sys2Proof/Laws/PerInstr.lean ====
section
/-! SUPPORT. Laws about the instruction as syntax, one lemma per constructor. The family `TableRow` holds the opcode
table's mask and match columns, transcribed apart from the encoder, and says that each constructor's
encoding lies in its row. -/

namespace Sys2Proof.Laws.TableRow

/-- A row of the opcode table: its format, its mask and its match. -/
inductive Row where
  | cmd8 (mask value : BitVec 8)
  | bus12 (mask value : BitVec 12)
  | stim40 (mask value : BitVec 40)

/-- The request has the row's format and agrees with its match under its mask. -/
def Row.holds : Row → Request → Prop
  | .cmd8 mask value, .command v => v &&& mask = value
  | .bus12 mask value, .bus w => w &&& mask = value
  | .stim40 mask value, .stimulus w => w &&& mask = value
  | _, _ => False

/-- The row of each constructor. -/
def rowOf : Instr → Row
  | .restore _ => .cmd8 0xF0 0x00
  | .seek _ => .cmd8 0xF0 0x10
  | .step _ => .cmd8 0xE0 0x20
  | .stepIn _ => .cmd8 0xE0 0x40
  | .stepOut _ => .cmd8 0xE0 0x60
  | .rdSec _ => .cmd8 0xE0 0x80
  | .wrSec _ => .cmd8 0xE0 0xA0
  | .rdAddr _ => .cmd8 0xF0 0xC0
  | .forceInt _ _ => .cmd8 0xF0 0xD0
  | .other _ => .cmd8 0xE0 0xE0
  | .rdStatus _ => .bus12 0xF00 0x000
  | .rdTrack _ => .bus12 0xF00 0x100
  | .rdSector _ => .bus12 0xF00 0x200
  | .rdData _ => .bus12 0xF00 0x300
  | .rdControl _ => .bus12 0xF00 0x400
  | .rdUnmapped5 _ => .bus12 0xF00 0x500
  | .rdUnmapped6 _ => .bus12 0xF00 0x600
  | .rdUnmapped7 _ => .bus12 0xF00 0x700
  | .wrCmd _ => .bus12 0xF00 0x800
  | .wrTrack _ => .bus12 0xF00 0x900
  | .wrSector _ => .bus12 0xF00 0xA00
  | .wrData _ => .bus12 0xF00 0xB00
  | .wrControl _ => .bus12 0xF00 0xC00
  | .wrUnmapped5 _ => .bus12 0xF00 0xD00
  | .wrUnmapped6 _ => .bus12 0xF00 0xE00
  | .wrUnmapped7 _ => .bus12 0xF00 0xF00
  | .stimRd _ => .stim40 0xF8FFFFFFFF 0x0000000000
  | .stimWr _ _ => .stim40 0xF8FFFFFF00 0x1000000000
  | .tick _ => .stim40 0xFF00000000 0x2000000000
  | .attach _ _ => .stim40 0xFC00000000 0x3000000000
  | .detach _ => .stim40 0xFCFFFFFFFF 0x4000000000
  | .reset => .stim40 0xFFFFFFFFFF 0x5000000000

/-- The encoding of the instruction lies in its own row of the opcode table. -/
def Statement (i : Instr) : Prop := (rowOf i).holds (encode i)

/-- What is above the low byte of a bus transaction survives the mask, what is below does not. -/
theorem bus_mask (k : BitVec 4) (d : BitVec 8) : (k ++ d) &&& 0xF00#12 = k ++ 0#8 := by
  show (k ++ d) &&& (0xF#4 ++ 0x00#8) = _
  rw [BitVec.and_append, show 0xF#4 = BitVec.allOnes 4 from rfl, BitVec.and_allOnes, BitVec.and_zero]

theorem restore (x : BitVec 4) : Statement (.restore x) := by
  revert x
  unfold Statement rowOf encode Row.holds
  decide

theorem seek (x : BitVec 4) : Statement (.seek x) := by
  revert x
  unfold Statement rowOf encode Row.holds
  decide

theorem step (x : BitVec 5) : Statement (.step x) := by
  revert x
  unfold Statement rowOf encode Row.holds
  decide

theorem stepIn (x : BitVec 5) : Statement (.stepIn x) := by
  revert x
  unfold Statement rowOf encode Row.holds
  decide

theorem stepOut (x : BitVec 5) : Statement (.stepOut x) := by
  revert x
  unfold Statement rowOf encode Row.holds
  decide

theorem rdSec (x : BitVec 5) : Statement (.rdSec x) := by
  revert x
  unfold Statement rowOf encode Row.holds
  decide

theorem wrSec (x : BitVec 5) : Statement (.wrSec x) := by
  revert x
  unfold Statement rowOf encode Row.holds
  decide

theorem rdAddr (x : BitVec 4) : Statement (.rdAddr x) := by
  revert x
  unfold Statement rowOf encode Row.holds
  decide

theorem forceInt (i : Bool) (x : BitVec 3) : Statement (.forceInt i x) := by
  revert i x
  unfold Statement rowOf encode Row.holds
  decide

theorem other (x : BitVec 5) : Statement (.other x) := by
  revert x
  unfold Statement rowOf encode Row.holds
  decide

theorem rdStatus (d : Byte) : Statement (.rdStatus d) := bus_mask _ _

theorem rdTrack (d : Byte) : Statement (.rdTrack d) := bus_mask _ _

theorem rdSector (d : Byte) : Statement (.rdSector d) := bus_mask _ _

theorem rdData (d : Byte) : Statement (.rdData d) := bus_mask _ _

theorem rdControl (d : Byte) : Statement (.rdControl d) := bus_mask _ _

theorem rdUnmapped5 (d : Byte) : Statement (.rdUnmapped5 d) := bus_mask _ _

theorem rdUnmapped6 (d : Byte) : Statement (.rdUnmapped6 d) := bus_mask _ _

theorem rdUnmapped7 (d : Byte) : Statement (.rdUnmapped7 d) := bus_mask _ _

theorem wrCmd (d : Byte) : Statement (.wrCmd d) := bus_mask _ _

theorem wrTrack (d : Byte) : Statement (.wrTrack d) := bus_mask _ _

theorem wrSector (d : Byte) : Statement (.wrSector d) := bus_mask _ _

theorem wrData (d : Byte) : Statement (.wrData d) := bus_mask _ _

theorem wrControl (d : Byte) : Statement (.wrControl d) := bus_mask _ _

theorem wrUnmapped5 (d : Byte) : Statement (.wrUnmapped5 d) := bus_mask _ _

theorem wrUnmapped6 (d : Byte) : Statement (.wrUnmapped6 d) := bus_mask _ _

theorem wrUnmapped7 (d : Byte) : Statement (.wrUnmapped7 d) := bus_mask _ _

theorem stimRd (r : Select) : Statement (.stimRd r) := by
  revert r
  unfold Statement rowOf encode Row.holds
  decide

theorem stimWr (r : Select) (v : Byte) : Statement (.stimWr r v) := by
  show (0x1#4 ++ (0#1 ++ r) ++ (0#24 ++ v)) &&& (0xF#4 ++ (1#1 ++ 0#3) ++ (0xFFFFFF#24 ++ 0#8)) = _
  simp only [BitVec.and_append, BitVec.and_zero]
  rfl

theorem tick (n : Ticks) : Statement (.tick n) := by
  show (0x2#4 ++ 0#4 ++ n) &&& (0xF#4 ++ 0xF#4 ++ 0#32) = _
  simp only [BitVec.and_append, BitVec.and_zero]
  rfl

theorem attach (d : Drive) (m : BitVec 32) : Statement (.attach d m) := by
  show (0x3#4 ++ (0#2 ++ d) ++ m) &&& (0xF#4 ++ (3#2 ++ 0#2) ++ 0#32) = _
  simp only [BitVec.and_append, BitVec.and_zero]
  rfl

theorem detach (d : Drive) : Statement (.detach d) := by
  revert d
  unfold Statement rowOf encode Row.holds
  decide

theorem reset : Statement .reset := by
  unfold Statement rowOf encode Row.holds
  decide

end Sys2Proof.Laws.TableRow
end

