-- ==== Sys2Proof/Laws/Transfer.lean ====
section
/-! SUPPORT. The two inductions over a transfer, each said once: the data reads that drain a read transfer, and the
data writes that fill a write transfer but for its last byte. Both hold from any position and for every form
of the access. -/

namespace Sys2Proof.Machine

/-- A data access that is not the last leaves `pos + 1` short of `len`. -/
theorem State.pos_next_ne {s : State} (h : s.pos.toNat + 1 < s.len.toNat) : s.pos + 1 ≠ s.len := by
  intro c
  have := congrArg BitVec.toNat c
  rw [BufCount.toNat_next (l := s.len) (by omega)] at this
  omega

/-- The last data access brings `pos + 1` to `len`. -/
theorem State.pos_next_eq {s : State} (h : s.pos.toNat + 1 = s.len.toNat) : s.pos + 1 = s.len := by
  apply BitVec.eq_of_toNat_eq
  rw [BufCount.toNat_next (l := s.len) (by omega), h]

/-- The byte a read transfer delivers next, where the buffer holds one. -/
theorem State.nextByte_eq {s : State} (h : s.pos.toNat < s.buf.length) : s.nextByte = s.buf[s.pos.toNat] := by
  simp [State.nextByte, h]

/-- Data reads from `pos` to `len` deliver the rest of the buffer in order; the last completes, and only it emits
(R93, R123). -/
theorem perform_dataReads (is : List Instr) : ∀ s : State, s.st = .xferRead → (∀ i ∈ is, readsData i) →
    0 < is.length → s.pos.toNat + is.length = s.len.toNat → s.len.toNat ≤ s.buf.length →
    ∃ t out, s.perform is = some (t, out) ∧
      out.map (·.1) = ((s.buf.drop s.pos.toNat).take is.length).map some ∧
      out.map (·.2) = List.replicate (is.length - 1) [] ++ [[Event.irq]] ∧
      s.buf[s.len.toNat - 1]? = some t.dr ∧ t.pos = s.len ∧
      t = { s with
        dr := t.dr, pos := t.pos, busy := false, drq := false, st := .idle, delay := t.delay,
        reply := t.reply, events := [.irq], hostResult := none } := by
  induction is with
  | nil => intro s _ _ h; cases h
  | cons i is ih =>
    intro s hst hi _ hl hb
    have hri : readsData i := hi i List.mem_cons_self
    rw [List.length_cons] at hl
    have hpl : s.pos.toNat < s.buf.length := by omega
    have hdrop := List.drop_eq_getElem_cons hpl
    rw [← State.nextByte_eq hpl] at hdrop
    cases is with
    | nil =>
      have hlast := State.pos_next_eq (s := s) hl
      refine ⟨_, _, perform_cons (exec_dataRead_last s hri hst hlast) rfl, ?_, rfl, ?_, hlast, rfl⟩
      · rw [hdrop]; rfl
      · rw [← hl]
        simp [hpl, State.nextByte_eq hpl]
    | cons j js =>
      rw [List.length_cons] at hl
      have hne := State.pos_next_ne (s := s) (by omega)
      have hx := exec_dataRead_deliver s hri hst hne
      have hp : (s.clearOutputs.deliverByte.answer s.nextByte).pos.toNat = s.pos.toNat + 1 :=
        BufCount.toNat_next (p := s.pos) (l := s.len) (by omega)
      obtain ⟨t, out, e, b1, b2, b3, b4, b5⟩ := ih (s.clearOutputs.deliverByte.answer s.nextByte) hst
        (fun k hk => hi k (List.mem_cons_of_mem _ hk)) (Nat.succ_pos _)
        (by rw [hp, List.length_cons]; show _ = s.len.toNat; omega) hb
      refine ⟨t, _, perform_cons hx e, ?_, ?_, b3, b4, b5⟩
      · rw [List.map_cons, b1, hp, List.length_cons (a := i), hdrop, List.take_succ_cons, List.map_cons]
        rfl
      · rw [List.map_cons, b2]
        rfl

/-- Data writes that leave a write transfer open collect their bytes and touch nothing else (R99). -/
theorem perform_dataWrites (is : List Instr) : ∀ (s : State) (bs : List Byte), s.st = .xferWrite →
    is.map dataByteOf = bs.map some → s.pos.toNat + is.length < s.len.toNat →
    ∃ t out, s.perform is = some (t, out) ∧
      out.map (·.2) = List.replicate is.length [] ∧ out.map (·.1) = List.replicate is.length none ∧
      t.pos.toNat = s.pos.toNat + is.length ∧ t.buf.length = s.buf.length ∧
      (s.len.toNat ≤ s.buf.length → t.buf.take t.pos.toNat = s.buf.take s.pos.toNat ++ bs) ∧
      t = { s with
        dr := t.dr, pos := t.pos, buf := t.buf, reply := t.reply, events := t.events,
        hostResult := t.hostResult } := by
  induction is with
  | nil =>
    intro s bs _ hbs _
    obtain rfl : bs = [] := by simpa using hbs.symm
    exact ⟨s, [], rfl, rfl, rfl, rfl, rfl, fun _ => by simp, rfl⟩
  | cons i is ih =>
    intro s bs hst hbs hl
    obtain ⟨b, bs, rfl⟩ : ∃ b bs', bs = b :: bs' := by
      cases bs with
      | nil => cases hbs
      | cons b bs' => exact ⟨b, bs', rfl⟩
    obtain ⟨hb, hbs⟩ : dataByteOf i = some b ∧ is.map dataByteOf = bs.map some := by simpa using hbs
    rw [List.length_cons] at hl
    have hx := exec_dataWrite_collect s hb hst (State.pos_next_ne (by omega))
    have hp : (s.clearOutputs.collectByte b).pos.toNat = s.pos.toNat + 1 :=
      BufCount.toNat_next (p := s.pos) (l := s.len) (by omega)
    obtain ⟨t, out, e, b1, b2, b3, b4, b5, b6⟩ := ih (s.clearOutputs.collectByte b) bs hst hbs
      (by rw [hp]; show _ < s.len.toNat; omega)
    refine ⟨t, _, perform_cons hx e, ?_, ?_, by rw [b3, hp, List.length_cons]; omega, ?_, fun hle => ?_, b6⟩
    · rw [List.map_cons, b1]; rfl
    · rw [List.map_cons, b2]; rfl
    · rw [b4]; exact List.length_set
    · have hlen : (s.clearOutputs.collectByte b).buf.length = s.buf.length := List.length_set
      rw [b5 (by rw [hlen]; exact hle), hp]
      have hpl : s.pos.toNat < (s.buf.set s.pos.toNat b).length := by rw [List.length_set]; omega
      show (s.buf.set s.pos.toNat b).take (s.pos.toNat + 1) ++ bs = _
      rw [List.take_succ_eq_append_getElem hpl, List.take_set_of_le (Nat.le_refl _)]
      simp

end Sys2Proof.Machine
end

