-- ==== Sys2Proof/Tests/Slice0.lean ====
section
/-! SUPPORT. Tests on single steps and small states, the smoke test of the well-formedness checks, and a witness
for the hypotheses of every statement. Expected values are those of the encodings of spec/30, of the
tables of spec/95 (default parameters), or worked out by hand from the rule a test names. -/

namespace Sys2Proof.Tests

open Sys2Proof Sys2Proof.Machine

-- One theorem after the other: as one text with the other files, the kernel evaluations below would otherwise
-- start a thread each.
set_option Elab.async false

/-! ### Small states -/

/-- An image with the given geometry and length whose store is 0x00 but for the listed cells. -/
def image (readOnly : Bool) (tracks sides size : Nat) (cells : Memory) : Image :=
  { size := size, store := cells, tracks := tracks, sides := sides, readOnly := readOnly, dirty := false,
    diskInfo := readDiskInfo [] 0, catalog := [] }

/-- A writable image of 80 tracks and 2 sides. -/
def imgA : Image := image false 80 2 655360 [(0, 0x11), (8192, 0x20), (24319, 0x5D), (24575, 0x5F), (24576, 0x60)]

/-- The same, opened read-only. -/
def imgRo : Image := { imgA with readOnly := true }

/-- An image of the smaller length at the default geometry (R184). -/
def imgHalf : Image := image false 80 2 327680 [(327679, 0x77)]

/-- A one-sided image. -/
def imgOne : Image := image false 80 1 655360 []

/-- Reset with the image in slot 0. -/
def mount (img : Image) : State :=
  { State.reset with images := [some img], slots := ⟨some 0, none, none, none⟩ }

/-- 256 bytes, byte `k` being `k`. -/
def countUp : List Byte := (List.range 256).map (BitVec.ofNat 8)

/-- A read transfer at `pos` of `len`. -/
def reading (pos len : BufCount) : State :=
  { mount imgA with st := .xferRead, busy := true, drq := true, pos := pos, len := len, buf := countUp }

/-- A write transfer at `pos` to the latched sector. -/
def writing (img : Image) (pos : BufCount) (trk : Byte) (side : Side) (sec : Byte) : State :=
  { mount img with
    st := .xferWrite, busy := true, drq := true, pos := pos, len := 256, buf := countUp,
    ltrk := trk, lside := side, lsec := sec }

/-- A type I command with this much delay left. -/
def running (delay : Ticks) : State := { State.reset with st := .busy, busy := true, delay := delay }

/-- The state an operation leaves, if it answers one. -/
def after (i : Instr) (s : State) : Option State :=
  match exec i s with
  | .next t => some t
  | .fault _ => none
  | .refused _ => none

/-! ### Well-formedness: every check refuses an ill-formed term -/

/-- R80: `SEL[3]` set and `ARG` not 0 for `RD`; byte above 255 for `WR`; `SEL` not 0 for `TICK`; drive 4 for `ATTACH` and
`DETACH`; arguments for `DETACH` and `RESET`; an unassigned `KIND`. -/
theorem test_stimulus_ill_formed :
    stimulusWellFormed 0x0800000000 = false ∧ stimulusWellFormed 0x0000000001 = false ∧
    stimulusWellFormed 0x1900000000 = false ∧ stimulusWellFormed 0x1000000100 = false ∧
    stimulusWellFormed 0x2100000005 = false ∧ stimulusWellFormed 0x3400000000 = false ∧
    stimulusWellFormed 0x4400000000 = false ∧ stimulusWellFormed 0x4000000001 = false ∧
    stimulusWellFormed 0x5100000000 = false ∧ stimulusWellFormed 0x5000000001 = false ∧
    stimulusWellFormed 0x6000000000 = false ∧ stimulusWellFormed 0xF000000000 = false := by decide +kernel

theorem test_stimulus_well_formed :
    stimulusWellFormed 0x0700000000 = true ∧ stimulusWellFormed 0x17000000FF = true ∧
    stimulusWellFormed 0x20FFFFFFFF = true ∧ stimulusWellFormed 0x33FFFFFFFF = true ∧
    stimulusWellFormed 0x4300000000 = true ∧ stimulusWellFormed 0x5000000000 = true := by decide +kernel

/-- R80: the decoder refuses the same words, by name. -/
theorem test_stimulus_refused :
    decode (.stimulus 0x0800000000) = .error (.conditionBroken 0) ∧
    decode (.stimulus 0x1000000100) = .error (.conditionBroken 1) ∧
    decode (.stimulus 0x2100000005) = .error (.conditionBroken 2) ∧
    decode (.stimulus 0x3400000000) = .error (.conditionBroken 3) ∧
    decode (.stimulus 0x4000000001) = .error (.conditionBroken 4) ∧
    decode (.stimulus 0x5000000001) = .error (.conditionBroken 5) ∧
    decode (.stimulus 0x6000000000) = .error (.unassignedKind 6) ∧
    decode (.stimulus 0xF000000000) = .error (.unassignedKind 15) := by decide +kernel

/-- R81: `CMD` cannot be read, `STATUS` cannot be written, a register number is at most 7. -/
theorem test_registers_ill_formed :
    AsmReg.command.readable = false ∧ (AsmReg.number 8).readable = false ∧
    AsmReg.status.writable = false ∧ (AsmReg.number 8).writable = false ∧
    (AsmReg.number 7).readable = true ∧ (AsmReg.number 7).writable = true := by decide +kernel

/-- R81, R82: one ill-formed line for every range. -/
theorem test_lines_ill_formed :
    (AsmLine.rd .command).wellFormed = false ∧ (AsmLine.wr .status 0).wellFormed = false ∧
    (AsmLine.wr .data 256).wellFormed = false ∧ (AsmLine.tick 4294967296).wellFormed = false ∧
    (AsmLine.attach 4 0).wellFormed = false ∧ (AsmLine.attach 0 4294967296).wellFormed = false ∧
    (AsmLine.detach 4).wellFormed = false ∧ (AsmLine.cmd .seek 16).wellFormed = false ∧
    (AsmLine.seekTo 256).wellFormed = false ∧ (AsmLine.select 4 0).wellFormed = false ∧
    (AsmLine.select 0 2).wellFormed = false ∧ (AsmLine.setAddr 256 0).wellFormed = false ∧
    (AsmLine.setAddr 0 256).wellFormed = false ∧ (AsmLine.writeN 1 256).wellFormed = false := by
  decide +kernel

/-! ### Decoding: words written out from the encodings -/

/-- R73, both ends of every row of the class map. -/
theorem test_decode_type1_commands :
    decode (.command 0b00000000#8) = .ok (.restore 0) ∧ decode (.command 0b00001111#8) = .ok (.restore 15) ∧
    decode (.command 0b00010000#8) = .ok (.seek 0) ∧ decode (.command 0b00011111#8) = .ok (.seek 15) ∧
    decode (.command 0b00100000#8) = .ok (.step 0) ∧ decode (.command 0b00111011#8) = .ok (.step 0x1B) ∧
    decode (.command 0b01000000#8) = .ok (.stepIn 0) ∧ decode (.command 0b01011111#8) = .ok (.stepIn 31) ∧
    decode (.command 0b01100000#8) = .ok (.stepOut 0) ∧
    decode (.command 0b01111111#8) = .ok (.stepOut 31) := by decide +kernel

theorem test_decode_other_commands :
    decode (.command 0b10000000#8) = .ok (.rdSec 0) ∧ decode (.command 0b10011111#8) = .ok (.rdSec 31) ∧
    decode (.command 0b10100000#8) = .ok (.wrSec 0) ∧ decode (.command 0b10111111#8) = .ok (.wrSec 31) ∧
    decode (.command 0b11000000#8) = .ok (.rdAddr 0) ∧ decode (.command 0b11001111#8) = .ok (.rdAddr 15) ∧
    decode (.command 0b11010111#8) = .ok (.forceInt false 7) ∧
    decode (.command 0b11011000#8) = .ok (.forceInt true 0) ∧
    decode (.command 0b11100000#8) = .ok (.other 0) ∧
    decode (.command 0b11110100#8) = .ok (.other 0x14) ∧
    decode (.command 0b11111111#8) = .ok (.other 31) := by decide +kernel

/-- R70, R71. -/
theorem test_decode_bus_reads :
    decode (.bus 0b000000000000#12) = .ok (.rdStatus 0) ∧ decode (.bus 0b000100000000#12) = .ok (.rdTrack 0) ∧
    decode (.bus 0b001000000000#12) = .ok (.rdSector 0) ∧ decode (.bus 0b001101011010#12) = .ok (.rdData 0x5A) ∧
    decode (.bus 0b010000000000#12) = .ok (.rdControl 0) ∧
    decode (.bus 0b010100000000#12) = .ok (.rdUnmapped5 0) ∧
    decode (.bus 0b011000000000#12) = .ok (.rdUnmapped6 0) ∧
    decode (.bus 0b011111111111#12) = .ok (.rdUnmapped7 0xFF) := by decide +kernel

theorem test_decode_bus_writes :
    decode (.bus 0b100010000000#12) = .ok (.wrCmd 0x80) ∧ decode (.bus 0b100101001111#12) = .ok (.wrTrack 0x4F) ∧
    decode (.bus 0b101000001001#12) = .ok (.wrSector 0x09) ∧
    decode (.bus 0b101110100101#12) = .ok (.wrData 0xA5) ∧
    decode (.bus 0b110000111101#12) = .ok (.wrControl 0x3D) ∧
    decode (.bus 0b110100010010#12) = .ok (.wrUnmapped5 0x12) ∧
    decode (.bus 0b111000010010#12) = .ok (.wrUnmapped6 0x12) ∧
    decode (.bus 0b111100010010#12) = .ok (.wrUnmapped7 0x12) := by decide +kernel

/-- R80; the words of the programs of spec/95. -/
theorem test_decode_stimuli :
    decode (.stimulus 0x0300000000) = .ok (.stimRd 3) ∧ decode (.stimulus 0x1300000028) = .ok (.stimWr 3 0x28) ∧
    decode (.stimulus 0x20000D2348) = .ok (.tick 861000) ∧
    decode (.stimulus 0x3000000001) = .ok (.attach 0 1) ∧
    decode (.stimulus 0x33FFFFFFFF) = .ok (.attach 3 0xFFFFFFFF) ∧
    decode (.stimulus 0x4300000000) = .ok (.detach 3) ∧
    decode (.stimulus 0x5000000000) = .ok .reset := by decide +kernel

/-- The host's numbering of a table word, for each of the three formats. -/
theorem test_table_words :
    decodeTableWord 8 0xD8 = some (.forceInt true 0) ∧ decodeTableWord 8 0x100 = none ∧
    decodeTableWord 16 0xB5A = some (.wrData 0x5A) ∧ decodeTableWord 16 0x1000 = none ∧
    decodeTableWord 40 0x5000000000 = some .reset ∧ decodeTableWord 40 0x5000000001 = none := by decide +kernel

/-- A delivered table word is what the next step performs. -/
theorem test_fetch_word_runs :
    (match step (State.reset.withFetchWord 40 0x1200000010) with
      | .next t => t.sr == 0x10
      | _ => false) = true := by decide +kernel

/-! ### One step of each instruction (spec/95 section 2) -/

theorem test_restore : (after (.restore 15) { State.reset with tr := 0x28 }).map (fun t => (t.tr, t.delay, t.status)) =
    some (0x00, 21000, 0x81) := by decide +kernel

theorem test_seek_up : (after (.seek 0) { State.reset with dr := 0x28 }).map (fun t => (t.tr, t.delay)) =
    some (0x28, 861000) := by decide +kernel

theorem test_seek_down : (after (.seek 0) { State.reset with tr := 0xFF }).map (fun t => (t.tr, t.delay)) =
    some (0x00, 5376000) := by decide +kernel

theorem test_step : (after (.step 0x1B) { State.reset with tr := 5 }).map (fun t => (t.tr, t.delay, t.cmdr)) =
    some (5, 21000, 0x3B) := by decide +kernel

theorem test_stepIn_moves : (after (.stepIn 0) { State.reset with tr := 0x4E }).map (·.tr) = some 0x4F := by
  decide +kernel

theorem test_stepIn_clamps : (after (.stepIn 0) { State.reset with tr := 0xFF }).map (·.tr) = some 0xFF := by
  decide +kernel

theorem test_stepOut_moves : (after (.stepOut 0) { State.reset with tr := 0xC8 }).map (·.tr) = some 0xC7 := by
  decide +kernel

theorem test_stepOut_clamps : (after (.stepOut 31) State.reset).map (·.tr) = some 0x00 := by decide +kernel

theorem test_rdSec_opens : (after (.rdSec 0) { mount imgA with tr := 1, sr := 1 }).map
    (fun t => (t.st, t.status, t.buf.head?, t.events)) = some (.xferRead, 0x03, some 0x20, [.drqEv]) := by
  decide +kernel

theorem test_rdSec_no_image : (after (.rdSec 0) State.reset).map (fun t => (t.st, t.status, t.events)) =
    some (.idle, 0x90, [.irq]) := by decide +kernel

theorem test_wrSec_latches : (after (.wrSec 0) { mount imgA with tr := 2, sr := 16, cr := 0x10 }).map
    (fun t => (t.ltrk, t.lside, t.lsec, t.status)) = some (2, 1, 15, 0x03) := by decide +kernel

theorem test_wrSec_read_only : (after (.wrSec 0) (mount imgRo)).map (fun t => (t.status, t.events)) =
    some (0x40, [.irq]) := by decide +kernel

theorem test_rdAddr : (after (.rdAddr 0) { State.reset with tr := 5, cr := 0x10, sr := 9 }).map
    (fun t => (t.buf.take 6, t.len, t.status)) = some ([0x05, 0x01, 0x09, 0x01, 0x00, 0x00], 6, 0x83) := by
  decide +kernel

theorem test_forceInt_silent : (after (.forceInt false 7) (running 21000)).map
    (fun t => (t.st, t.delay, t.events)) = some (.idle, 0, []) := by decide +kernel

theorem test_forceInt_immediate : (after (.forceInt true 0) State.reset).map (fun t => (t.cmdr, t.events)) =
    some (0xD8, [.irq]) := by decide +kernel

theorem test_other : (after (.other 0x14) (running 500)).map (fun t => (t.st, t.delay, t.status, t.events)) =
    some (.idle, 0, 0x80, []) := by decide +kernel

theorem test_rdStatus : (after (.rdStatus 0xFF) State.reset).map (·.reply) = some (some 0x80) := by decide +kernel

theorem test_rdTrack : (after (.rdTrack 0) { State.reset with tr := 0x4F }).map (·.reply) = some (some 0x4F) := by
  decide +kernel

theorem test_rdSector : (after (.rdSector 0) { State.reset with sr := 0x09 }).map (·.reply) =
    some (some 0x09) := by decide +kernel

theorem test_rdData_last : (after (.rdData 0) (reading 255 256)).map (fun t => (t.reply, t.dr, t.st, t.events)) =
    some (some 0xFF, 0xFF, .idle, [.irq]) := by decide +kernel

theorem test_rdData_idle : (after (.rdData 0) { State.reset with dr := 0x28 }).map (·.reply) =
    some (some 0x28) := by decide +kernel

theorem test_rdControl : (after (.rdControl 0) { State.reset with cr := 0x3D }).map (·.reply) =
    some (some 0x3D) := by decide +kernel

theorem test_rdUnmapped : (after (.rdUnmapped5 0) State.reset).map (·.reply) = some (some 0xFF) ∧
    (after (.rdUnmapped6 0) State.reset).map (·.reply) = some (some 0xFF) ∧
    (after (.rdUnmapped7 0) State.reset).map (·.reply) = some (some 0xFF) := by decide +kernel

theorem test_wrCmd_replaces_running : (after (.wrCmd 0x10) { running 21000 with dr := 0x28 }).map
    (fun t => (t.tr, t.delay, t.events)) = some (0x28, 861000, []) := by decide +kernel

theorem test_wrTrack : (after (.wrTrack 0xFF) State.reset).map (·.tr) = some 0xFF := by decide +kernel

theorem test_wrSector : (after (.wrSector 0x10) State.reset).map (·.sr) = some 0x10 := by decide +kernel

theorem test_wrData_commits : (after (.wrData 0xA5) (writing imgA 255 2 1 15)).map
    (fun t => (t.storeByte 0 24319, t.storeByte 0 24575, t.storeByte 0 24576, t.status)) =
    some (some 0x5D, some 0xA5, some 0x60, 0x00) := by decide +kernel

theorem test_wrData_in_read_transfer : (after (.wrData 0x99) (reading 1 256)).map (fun t => (t.dr, t.pos, t.st)) =
    some (0x99, 1, .xferRead) := by decide +kernel

theorem test_wrControl : (after (.wrControl 0x3D) (mount imgA)).map (fun t => (t.cr, t.drive, t.side, t.status)) =
    some (0x3D, 1, 1, 0x80) := by decide +kernel

theorem test_wrUnmapped : (after (.wrUnmapped5 0x12) State.reset) = some State.reset ∧
    (after (.wrUnmapped6 0x12) State.reset) = some State.reset ∧
    (after (.wrUnmapped7 0x12) State.reset) = some State.reset := by decide +kernel

theorem test_stimRd : (after (.stimRd 3) (reading 5 6)).map (fun t => (t.reply, t.st, t.events)) =
    some (some 0x05, .idle, [.irq]) := by decide +kernel

theorem test_stimWr : (after (.stimWr 3 0x11) (writing imgA 0 0 0 0)).map (fun t => (t.dr, t.pos, t.buf.take 2)) =
    some (0x11, 1, [0x11, 0x01]) := by decide +kernel

theorem test_tick_one_short : (after (.tick 860999) (running 861000)).map (fun t => (t.st, t.delay, t.events)) =
    some (.busy, 1, []) := by decide +kernel

theorem test_tick_drops_excess : (after (.tick 0xFFFFFFFF) (running 21000)).map
    (fun t => (t.st, t.delay, t.events)) = some (.idle, 0, [.irq]) := by decide +kernel

theorem test_attach : (after (.attach 0 0) { State.reset with images := [some imgA] }).map
    (fun t => (t.slots.slot0, t.status)) = some (some 0, 0x00) := by decide +kernel

theorem test_detach : (after (.detach 0) (mount imgA)).map (fun t => (t.slots.slot0, t.status, t.images)) =
    some (none, 0x80, [some imgA]) := by decide +kernel

theorem test_reset : (after .reset (writing imgA 200 7 0 2)).map (fun t => (t.st, t.tr, t.status, t.events)) =
    some (.idle, 0x00, 0x00, []) := by decide +kernel

/-! ### The addressing engine and the host port (spec/95 sections 2.4, 2.7, 2.8) -/

theorem test_offsets :
    sectorOffset imgA 0 0 8 = 2048 ∧ sectorOffset imgA 0 1 0 = 4096 ∧ sectorOffset imgA 1 0 0 = 8192 ∧
    sectorOffset imgA 2 1 15 = 24320 ∧ sectorOffset imgA 79 1 15 = 655104 ∧
    sectorOffset imgOne 1 0 0 = 4096 ∧ sectorOffset imgOne 79 0 15 = 327424 := by decide +kernel

theorem test_rdSec_past_the_store : (after (.rdSec 0) { mount imgHalf with tr := 40, sr := 1 }).map (·.status) =
    some 0x10 := by decide +kernel

theorem test_confirmGeometry : confirmGeometry 0x17 (80, 2) = (40, 2) ∧ confirmGeometry 0x18 (80, 2) = (80, 1) ∧
    confirmGeometry 0x19 (80, 2) = (80, 2) ∧ geometryOfSize 655361 = none := by decide +kernel

/-- R53: the scan stops at the first invalid entry, and later valid ones are not loaded. -/
theorem test_scan_stops :
    (scanEntries [] [[0x41], [0x41], [0x01], [0x41]]).1.length = 2 ∧
    (scanEntries [] [[0x41], [0x41], [0x01], [0x41]]).2 = true := by decide +kernel

theorem test_host_refusals :
    execHost (.close 0) (mount imgA) = .refused (.closeAttached 0) ∧
    execHost (.flush 1) (mount imgA) = .refused (.imageNotOpen 1) := ⟨rfl, rfl⟩

/-! ### The assembler (R81, R82) -/

/-- Program P1 of spec/95, with its stimulus words. -/
theorem test_assemble_p1 :
    (assemble Params.suggested []
      ["CMD RESTORE ; first".toList, "SEEKTO 0x28".toList, "TICK 861000".toList]).map (·.map encode) =
    some [.stimulus 0x1000000000, .stimulus 0x1300000028, .stimulus 0x1000000010, .stimulus 0x20000D2348] := by
  decide +kernel

theorem test_assemble_host_lines :
    (assemble Params.suggested [("A".toList, 0)]
      ["ATTACH 0, A".toList, "WR CONTROL, 0x10".toList, "CMD FORCEINT, 8".toList, "RD STATUS".toList,
        "DETACH 3".toList, "RESET".toList, "; only a comment".toList]).map (·.map encode) =
    some [.stimulus 0x3000000000, .stimulus 0x1400000010, .stimulus 0x10000000D8, .stimulus 0x0000000000,
      .stimulus 0x4300000000, .stimulus 0x5000000000] := by decide +kernel

theorem test_assemble_refuses :
    assemble Params.suggested [] ["RD CMD".toList] = none ∧
    assemble Params.suggested [] ["ATTACH 0, A".toList] = none ∧
    assemble Params.suggested [] ["WR DATA, 256".toList] = none := by decide +kernel

/-! ### Witnesses: states and operands that meet the hypotheses of the statements -/

/-- `Obligations.EncodeOfDecodeIsIdentity`. -/
theorem witness_decoded_word : decode (.bus 0x35A) = .ok (.rdData 0x5A) := by decide +kernel

/-- `Obligations.StimulusWordsDecodeExactlyWhenWellFormed`, third clause. -/
theorem witness_refused_stimulus :
    (State.reset.deliver (.stimulus 0x0800000000)).inputs = [.request (.stimulus 0x0800000000)] ∧
    stimulusWellFormed 0x0800000000 = false := by decide +kernel

/-- `Obligations.CommandByteClassMap`: every clause has both ends of its range, and no byte falls under two. -/
theorem witness_class_ranges :
    (0x0F#8).toNat < 0x10 ∧ (0x10 ≤ (0x10#8).toNat ∧ (0x1F#8).toNat < 0x20) ∧
    (0x20 ≤ (0x20#8).toNat ∧ (0x3F#8).toNat < 0x40) ∧ (0x40 ≤ (0x40#8).toNat ∧ (0x5F#8).toNat < 0x60) ∧
    (0x60 ≤ (0x60#8).toNat ∧ (0x7F#8).toNat < 0x80) ∧ (0x80 ≤ (0x80#8).toNat ∧ (0x9F#8).toNat < 0xA0) ∧
    (0xA0 ≤ (0xA0#8).toNat ∧ (0xBF#8).toNat < 0xC0) ∧ (0xC0 ≤ (0xC0#8).toNat ∧ (0xCF#8).toNat < 0xD0) ∧
    (0xD0 ≤ (0xD0#8).toNat ∧ (0xDF#8).toNat < 0xE0) ∧ 0xE0 ≤ (0xE0#8).toNat ∧ 0xE0 ≤ (0xFF#8).toNat := by
  decide +kernel

/-- `Obligations.RegisterSelectMap`, second clause, at both ends of the selects. -/
theorem witness_selects :
    decode (.bus (0#1 ++ 0#3 ++ 0x5A#8)) = .ok (.rdStatus 0x5A) ∧
    decode (.bus (1#1 ++ 0#3 ++ 0x80#8)) = .ok (.wrCmd 0x80) ∧
    decode (.bus (0#1 ++ 7#3 ++ 0x5A#8)) = .ok (.rdUnmapped7 0x5A) ∧
    decode (.bus (1#1 ++ 7#3 ++ 0x80#8)) = .ok (.wrUnmapped7 0x80) := by decide +kernel

/-- `Obligations.StepPerformsDeliveredOperation`, its four clauses. -/
theorem witness_deliveries :
    (State.reset.deliver (.command 0x00)).inputs = [.request (.command 0x00)] ∧
    decode (.command 0x00) = .ok (.restore 0) ∧
    ({ State.reset with inputs := [.host (.flush 0)] } : State).inputs = [.host (.flush 0)] ∧
    State.reset.inputs = [] ∧ requestOf 40 0x5000000000 = some (.stimulus 0x5000000000) := by decide +kernel

/-- `Obligations.IgnoredCommandBits`: a row with ignored bits, and Force Interrupt with its immediate bit. -/
theorem witness_ignored_bits :
    commandClass 0x00 = commandClass 0x0F ∧ commandClass 0x00 ≠ .forceInt ∧
    (∃ t, exec (.wrCmd 0x00) State.reset = .next t) ∧
    commandClass 0xD8 = commandClass 0xDF ∧ commandClass 0xD8 = .forceInt ∧
    (0xD8#8).getLsbD 3 = (0xDF#8).getLsbD 3 ∧ (∃ t, exec (.wrCmd 0xD8) State.reset = .next t) :=
  ⟨by decide, by decide, ⟨_, rfl⟩, by decide, by decide, by decide, ⟨_, rfl⟩⟩

/-- `Obligations.CommandWriteIsItsCommand`: an empty slot and an open image. -/
theorem witness_live_slots : State.reset.ActiveSlotLive ∧ (mount imgA).ActiveSlotLive := by
  constructor <;> intro m h <;> cases h

/-- `Obligations.PowerOnMeetsInvariant`: the suggested parameters, the smallest and the largest admitted ones. -/
theorem witness_valid_params :
    Params.suggested.Valid ∧
    { Params.suggested with
      delayRestore := 1, delaySeekBase := 1, delaySeekPerTrack := 0, delayStep := 1,
      diskInfoTypeOffset := 233 }.Valid ∧
    { Params.suggested with delaySeekBase := 255, delaySeekPerTrack := 16843008 }.Valid := by decide +kernel

/-- Reset meets the invariant. -/
theorem witness_reset_inv : State.reset.Inv := by
  have he : ∀ d : Drive, State.reset.slots.get d = none := by decide
  refine ⟨by decide +kernel, by decide +kernel, fun d m h => ?_, fun m img h => ?_⟩
  · rw [he d] at h
    cases h
  · cases h

/-- `Obligations.StepKeepsInvariant`. -/
theorem witness_invariant_step :
    (State.reset.deliver (.command 0x10)).Inv ∧ ∃ t, step (State.reset.deliver (.command 0x10)) = .next t :=
  ⟨witness_reset_inv.of_same rfl rfl rfl (by decide +kernel), ⟨_, rfl⟩⟩

/-- Some content opens. -/
theorem witness_opens : ∃ img, openImage (List.replicate 327680 0) true true 0 = .ok img ∧ img.readOnly = false := by
  obtain ⟨img, h, _, _, _, h5, _⟩ := openImage_supported (List.replicate 327680 0) true true 0
    (.inr List.length_replicate) (by decide)
  exact ⟨img, h, h5⟩

/-- `Obligations.ReachableStatesMeetSequencerInvariant`, and `Obligations.ReachableStepsNeverFault`: reachable states in `Idle`
with `RNF`, in `Busy`, and in a read transfer. -/
theorem witness_reachable :
    (∃ s, Reachable Params.suggested s ∧ s.st = .idle ∧ s.rnf = true) ∧
    (∃ s, Reachable Params.suggested s ∧ s.st = .busy) ∧
    (∃ s, Reachable Params.suggested s ∧ s.st = .xferRead) := by
  have go : ∀ v : Byte, Reachable Params.suggested { State.reset with inputs := [.request (.command v)] } :=
    fun v => .deliver _ _ .powerOn
  exact ⟨⟨_, .step _ _ (go 0x80) rfl, rfl, rfl⟩, ⟨_, .step _ _ (go 0x10) rfl, rfl⟩,
    ⟨_, .step _ _ (go 0xC0) rfl, rfl⟩⟩

/-- A content that opens writable leads to a reachable write transfer. -/
theorem reachable_write_of_open {bytes : List Byte} {img : Image}
    (h : openImage bytes true true State.reset.params.diskInfoTypeOffset = .ok img) (hro : img.readOnly = false) :
    ∃ s, Reachable Params.suggested s ∧ s.st = .xferWrite := by
  have hopen : step { State.reset with inputs := [.host (.openImage bytes true true)] } =
      .next { State.reset with images := [some img], hostResult := some (.opened 0) } := by
    simp only [step, execHost, State.hostOpen, State.withInputs, State.clearOutputs, h]
    rfl
  have h1 := Reachable.deliver _ [.request (.stimulus 0x3000000000), .request (.command 0xA0)]
    (.step _ _ (.deliver _ _ .powerOn) hopen)
  have h2 := Reachable.step _ _ h1 rfl
  obtain ⟨t, ht, hst⟩ : ∃ t, step { State.reset with
      images := [some img], slots := ⟨some 0, none, none, none⟩, inputs := [.request (.command 0xA0)] } = .next t ∧
      t.st = .xferWrite := ⟨_, if_neg (by rw [hro]; decide), rfl⟩
  exact ⟨t, .step _ _ h2 ht, hst⟩

/-- The same statements: a reachable write transfer. -/
theorem witness_reachable_write : ∃ s, Reachable Params.suggested s ∧ s.st = .xferWrite := by
  obtain ⟨img, h, hro⟩ := witness_opens
  exact reachable_write_of_open h hro

/-- `Obligations.StatusTakesTenValues`: sound states in every sequencer state. -/
theorem witness_sound_states :
    State.reset.SequencerSound ∧ (running 1).SequencerSound ∧ (reading 5 6).SequencerSound ∧
    (reading 255 256).SequencerSound ∧ (writing imgA 255 2 1 15).SequencerSound :=
  ⟨by decide +kernel, by decide +kernel, by decide +kernel, by decide +kernel, by decide +kernel⟩

/-- `Obligations.NotReadyFollowsSlotAndSelection`, second clause: each of the five operations can move it. -/
theorem witness_notReady_moves :
    (after (.wrControl 1) (mount imgA)).map (·.notReady) = some true ∧
    (after (.stimWr 4 1) (mount imgA)).map (·.notReady) = some true ∧
    (after (.detach 0) (mount imgA)).map (·.notReady) = some true ∧
    (after .reset { mount imgA with cr := 1 }).map (·.notReady) = some false ∧
    (after (.attach 0 0) { State.reset with images := [some imgA] }).map (·.notReady) = some false := by
  decide +kernel

/-- `Obligations.TrackSectorControlReads`, fourth clause. -/
theorem witness_command_completes : ∃ t, exec (.wrCmd 0xFF) State.reset = .next t := ⟨_, rfl⟩

/-- `Obligations.DataRead`: both operations; the first, a middle and the last byte of both lengths. -/
theorem witness_data_reads :
    readsData (.rdData 0x5A) ∧ readsData (.stimRd 3) ∧ State.reset.st ≠ .xferRead ∧
    ((reading 0 6).st = .xferRead ∧ (reading 0 6).buf[0]? = some 0x00 ∧ (reading 0 6).pos + 1 ≠ (reading 0 6).len) ∧
    ((reading 5 6).buf[5]? = some 0x05 ∧ (reading 5 6).pos + 1 = (reading 5 6).len) ∧
    ((reading 254 256).buf[254]? = some 0xFE ∧ (reading 254 256).pos + 1 ≠ (reading 254 256).len) ∧
    ((reading 255 256).buf[255]? = some 0xFF ∧ (reading 255 256).pos + 1 = (reading 255 256).len) :=
  ⟨.inl ⟨_, rfl⟩, .inr rfl, by decide +kernel⟩

/-- `Obligations.UnmappedSelects`. -/
theorem witness_unmapped : 5 ≤ (5#3).toNat ∧ 5 ≤ (7#3).toNat := by decide

/-- `Obligations.DataWriteCollects`, `Obligations.LastDataWriteCommits`: both operations, outside a transfer, at the first byte, at
the last but one, and at the last. -/
theorem witness_data_writes :
    dataByteOf (.wrData 0xA5) = some 0xA5 ∧ dataByteOf (.stimWr 3 0xA5) = some 0xA5 ∧
    State.reset.st ≠ .xferWrite ∧
    ((writing imgA 0 0 0 0).st = .xferWrite ∧ (writing imgA 0 0 0 0).pos + 1 ≠ (writing imgA 0 0 0 0).len) ∧
    (writing imgA 254 0 0 0).pos + 1 ≠ (writing imgA 254 0 0 0).len ∧
    (writing imgA 255 0 0 0).pos + 1 = (writing imgA 255 0 0 0).len := by decide +kernel

/-- `Obligations.LastDataWriteCommits`: an empty slot, a read-only image, an address past the tracks, past the sides, past the
sectors and past the store, and the last sector of the image. -/
theorem witness_commits :
    ({ writing imgA 255 0 0 0 with cr := 1 } : State).slots.get 1 = none ∧
    (writing imgRo 255 0 0 0).slots.get (writing imgRo 255 0 0 0).drive = some 0 ∧
    (writing imgRo 255 0 0 0).imageAt 0 = some imgRo ∧ imgRo.readOnly = true ∧ imgA.readOnly = false ∧
    ¬80 < imgA.tracks ∧ ¬1 < imgOne.sides ∧
    ¬(40 < imgHalf.tracks ∧ 0 < imgHalf.sides ∧ 0 < 16 ∧ sectorOffset imgHalf 40 0 0 + 256 ≤ imgHalf.size) ∧
    (79 < imgA.tracks ∧ 1 < imgA.sides ∧ 15 < 16 ∧ sectorOffset imgA 79 1 15 + 256 = imgA.size) := by
  decide +kernel

/-- `Obligations.CommitStoresTheLatchedSector`, at the last sector; `Obligations.StoreChangesOnlyInLastDataWrite`: the last byte of that
sector does change. -/
theorem witness_commit_stores :
    dataByteOf (.wrData 0xA5) = some 0xA5 ∧ (writing imgA 255 79 1 15).st = .xferWrite ∧
    (writing imgA 255 79 1 15).pos + 1 = (writing imgA 255 79 1 15).len ∧
    (writing imgA 255 79 1 15).buf.length = 256 ∧
    (writing imgA 255 79 1 15).activeSlot = .image 0 imgA ∧ imgA.readOnly = false ∧
    inGeometry imgA 79 1 15 = true ∧ sectorOffset imgA 79 1 15 + 256 ≤ imgA.size ∧
    (after (.wrData 0xA5) (writing imgA 255 79 1 15)).map (·.storeByte 0 655359) = some (some 0xA5) ∧
    (writing imgA 255 79 1 15).storeByte 0 655359 = some 0x00 := by decide +kernel

/-- `Obligations.SeekMovesToDataRegister`: both directions and the largest distance. -/
theorem witness_seek_delays :
    861000 = State.reset.params.delaySeekBase.toNat +
      ((0x28 : Int) - (0x00 : Int)).natAbs * State.reset.params.delaySeekPerTrack.toNat ∧
    5376000 = State.reset.params.delaySeekBase.toNat +
      ((0x00 : Int) - (0xFF : Int)).natAbs * State.reset.params.delaySeekPerTrack.toNat ∧
    State.reset.params.Valid := by decide +kernel

/-- `Obligations.StepInStepOutClamp`, at the boundaries of its clauses. -/
theorem witness_clamps :
    (78#8).toNat < Params.suggested.maxTrack.toNat ∧ Params.suggested.maxTrack.toNat ≤ (79#8).toNat ∧
    Params.suggested.maxTrack.toNat ≤ (255#8).toNat ∧ 0 < (1#8).toNat ∧ State.reset.tr = 0 := by decide +kernel

/-- `Obligations.TypeOneRunsToOneIrq`: first and last type I byte; one tick short and exactly enough. -/
theorem witness_type_one :
    isTypeOne (commandClass 0x00) = true ∧ isTypeOne (commandClass 0x7F) = true ∧ State.reset.params.Valid ∧
    (20999 : Ticks).toNat < State.reset.params.delayStep.toNat ∧
    State.reset.params.delayStep.toNat ≤ (21000 : Ticks).toNat := by decide +kernel

/-- `Obligations.TickCountsDown`: exactly enough, one short, outside `Busy` with and without a delay. -/
theorem witness_ticks :
    ((running 21000).st = .busy ∧ (running 21000).delay.toNat ≤ (21000 : Ticks).toNat) ∧
    (20999 : Ticks).toNat < (running 21000).delay.toNat ∧
    (State.reset.st ≠ .busy ∧ State.reset.delay = 0) ∧
    ({ State.reset with delay := 5 } : State).st ≠ .busy := by decide +kernel

/-- `Obligations.TicksAdd`, at the largest sum. -/
theorem witness_tick_sum : (0xFFFFFFFE : Ticks).toNat + (1 : Ticks).toNat < 2 ^ 32 := by decide

/-- `Obligations.ReadSectorOutcomes`: no image; past the tracks, the sides, the sectors (`SR` 0 and 17) and the store; the first
and the last sector. -/
theorem witness_read_sector :
    State.reset.slots.get State.reset.drive = none ∧
    ((mount imgA).slots.get (mount imgA).drive = some 0 ∧ (mount imgA).imageAt 0 = some imgA) ∧
    ¬(80#8).toNat < imgA.tracks ∧ ¬(1#1).toNat < imgOne.sides ∧ ¬(0 - 1 : Byte).toNat < 16 ∧
    ¬(17 - 1 : Byte).toNat < 16 ∧ ¬40 * imgHalf.sides * 4096 + 0 * 4096 + 0 * 256 + 256 ≤ imgHalf.size ∧
    (0 < imgA.tracks ∧ 0 < imgA.sides ∧ (1 - 1 : Byte).toNat < 16) ∧
    (79 < imgA.tracks ∧ (1#1).toNat < imgA.sides ∧ (16 - 1 : Byte).toNat < 16 ∧
      79 * imgA.sides * 4096 + 1 * 4096 + 15 * 256 + 256 ≤ imgA.size) := by decide +kernel

/-- `Obligations.WriteSectorOutcomes`. -/
theorem witness_write_sector :
    State.reset.slots.get State.reset.drive = none ∧
    ((mount imgRo).slots.get (mount imgRo).drive = some 0 ∧ (mount imgRo).imageAt 0 = some imgRo ∧
      imgRo.readOnly = true) ∧
    ((mount imgA).imageAt 0 = some imgA ∧ imgA.readOnly = false) := by decide +kernel

/-- `Obligations.ClosedImageStopsTransfers`: a slot whose image the table does not hold. -/
theorem witness_closed :
    ({ writing imgA 255 0 0 0 with images := [none] } : State).slots.get 0 = some 0 ∧
    ({ writing imgA 255 0 0 0 with images := [none] } : State).imageAt 0 = none ∧
    dataByteOf (.stimWr 3 0) = some 0 ∧
    (writing imgA 255 0 0 0).pos + 1 = (writing imgA 255 0 0 0).len := by decide +kernel

/-- `Obligations.ReadAddressIdentifier`. -/
theorem witness_buffer : State.reset.buf.length = 256 ∧ 6 ≤ 255 ∧ 255 < 256 := by decide +kernel

/-- `Obligations.ReadTransferDeliversBuffer`, with both lengths. -/
theorem witness_read_transfer :
    (reading 0 6).st = .xferRead ∧ (reading 0 6).pos = 0 ∧
    (0 < countUp.length ∧ countUp.length = (reading 0 256).len.toNat ∧
      countUp.length ≤ (reading 0 256).buf.length) ∧
    (0 < [0x00, 0x01, 0x02, 0x03, 0x04, 0x05].length ∧
      [0x00, 0x01, 0x02, 0x03, 0x04, 0x05].length = (reading 0 6).len.toNat ∧
      [0x00, 0x01, 0x02, 0x03, 0x04, 0x05].length ≤ (reading 0 6).buf.length) := by decide +kernel

/-- `Obligations.WriteTransferCommitsItsBytes`, `Obligations.WrittenSectorReadsBack`, at the last sector. -/
theorem witness_write_transfer :
    let s := { mount imgA with tr := 79, sr := 16, cr := 0x10 }
    s.activeSlot = .image 0 imgA ∧ imgA.readOnly = false ∧ countUp.length = 256 ∧
    inGeometry imgA s.tr.toNat s.side.toNat s.secIndex.toNat = true ∧
    sectorOffset imgA s.tr.toNat s.side.toNat s.secIndex.toNat + 256 ≤ imgA.size := by decide +kernel

/-- `Obligations.AttachStoresReference`: the selected drive, and another. -/
theorem witness_attach :
    (mount imgA).imageAt (0#32).toNat = some imgA ∧ (0#2) = (mount imgA).drive ∧ (3#2) ≠ (mount imgA).drive := by
  decide +kernel

/-- `Obligations.DetachEmptiesSlot`: an empty slot, the selected drive and another; two bytes before the end and right
before the end of either transfer, in both forms of the access. -/
theorem witness_detach :
    (mount imgA).slots.get 3 = none ∧ (0#2) = (mount imgA).drive ∧ (3#2) ≠ (mount imgA).drive ∧
    ((reading 4 6).st = .xferRead ∧ (∀ i ∈ [Instr.rdData 0, Instr.stimRd 3], readsData i) ∧
      (reading 4 6).pos.toNat + [Instr.rdData 0, Instr.stimRd 3].length = (reading 4 6).len.toNat ∧
      (reading 4 6).len.toNat ≤ (reading 4 6).buf.length) ∧
    (reading 255 256).pos.toNat + [Instr.stimRd 3].length = (reading 255 256).len.toNat ∧
    ((0#2) = (writing imgA 254 0 0 0).drive ∧ (writing imgA 254 0 0 0).st = .xferWrite ∧
      [Instr.wrData 0xA5, Instr.stimWr 3 0x5A].map dataByteOf = ([0xA5, 0x5A] : List Byte).map some ∧
      (writing imgA 254 0 0 0).pos.toNat + [Instr.wrData 0xA5, Instr.stimWr 3 0x5A].length =
        (writing imgA 254 0 0 0).len.toNat) ∧
    (writing imgA 255 0 0 0).pos.toNat + [Instr.stimWr 3 0x5A].length = (writing imgA 255 0 0 0).len.toNat :=
  ⟨by decide, by decide, by decide,
    ⟨rfl, by simp [readsData], by decide, by decide +kernel⟩,
    by decide, ⟨by decide, rfl, by decide +kernel, by decide⟩, by decide⟩

/-- `Obligations.AddressingFunction`, third clause, at its largest operands. -/
theorem witness_largest_offset : 253 ≤ 253 ∧ imgA.sides ≤ 2 ∧ 1 ≤ 1 ∧ 15 ≤ 15 ∧ sectorOffset imgA 253 1 15 = 2080512 := by
  decide +kernel

/-- `Obligations.ReadSectorPort`, `Obligations.WriteSectorPort`: each test failing at its boundary, and the last sector. -/
theorem witness_sector_ports :
    80 ≥ imgA.tracks ∧ 2 ≥ imgA.sides ∧ 16 ≥ 16 ∧
    (40 < imgHalf.tracks ∧ 0 < imgHalf.sides ∧ sectorOffset imgHalf 40 0 0 + 256 > imgHalf.size) ∧
    (79 < imgA.tracks ∧ 1 < imgA.sides ∧ sectorOffset imgA 79 1 15 + 256 ≤ imgA.size) ∧
    countUp.length = 256 ∧ imgRo.readOnly = true ∧ imgA.readOnly = false := by decide +kernel

/-- `Obligations.GeometryResolution`: both admitted lengths, and neighbours that are not. -/
theorem witness_lengths :
    (List.replicate 655360 (0 : Byte)).length = 655360 ∧ (List.replicate 327680 (0 : Byte)).length = 327680 ∧
    (List.replicate 655361 (0 : Byte)).length ≠ 655360 ∧ (List.replicate 655361 (0 : Byte)).length ≠ 327680 ∧
    (233 ≤ 233) := by
  simp only [List.length_replicate]
  decide

/-- `Obligations.RecordLayouts`, `Obligations.CatalogScanStopsAtFirstInvalid`: an image opens at the largest type offset, and a function
of its bytes exists. -/
theorem witness_record :
    (∃ img, openImage (List.replicate 327680 0) true true 233 = .ok img) ∧
    ∃ f : Nat → Byte, ∀ k, f k = (List.replicate 327680 (0 : Byte)).getD (2048 + 233 + k) 0 := by
  obtain ⟨img, h, _⟩ := openImage_supported (List.replicate 327680 0) true true 233
    (.inr List.length_replicate) (by decide)
  exact ⟨⟨img, h⟩, ⟨_, fun _ => rfl⟩⟩

/-- `Obligations.HostImageOperations`, first clause: an open that succeeds and one that fails. -/
theorem witness_host_opens :
    (∃ img, openImage (List.replicate 327680 0) true true State.reset.params.diskInfoTypeOffset = .ok img) ∧
    openImage [] true true State.reset.params.diskInfoTypeOffset = .error .unsupportedSize :=
  ⟨witness_opens.imp fun _ h => h.1, rfl⟩

/-- `Obligations.HostImageOperations`, the other clauses: an open image, free or held by a slot, its reads and writes succeeding
and failing, and an index without an image. -/
theorem witness_host_operations :
    (mount imgA).imageAt 0 = some imgA ∧ (mount imgA).slots.get 0 = some 0 ∧
    (∀ d : Drive, ({ State.reset with images := [some imgA] } : State).slots.get d ≠ some 0) ∧
    (mount imgA).imageAt 1 = none ∧ (mount imgA).imageAt (7#32).toNat = none ∧
    (∃ r, readSector imgA 0 0 0 = .ok r) ∧ readSector imgA 80 0 0 = .error .addressOutOfRange ∧
    (∃ img, writeSector imgA 0 0 0 (Vector.replicate 256 (0 : Byte)).toList = .ok img) ∧
    writeSector imgRo 0 0 0 (Vector.replicate 256 (0 : Byte)).toList = .error .readOnly :=
  ⟨rfl, rfl, by decide, rfl, rfl,
    ⟨_, (readSector_ok imgA 0 0 0 _).2 ⟨by decide, by decide, rfl⟩⟩, rfl,
    ⟨_, (writeSector_ok imgA 0 0 0 _ _).2 ⟨rfl, by decide, by decide, rfl⟩⟩, rfl⟩

/-- `Obligations.IrqCauses`, `Obligations.TransitionTable`, `Obligations.FailureFlagsLastUntilNextCommand`: each of the five causes of `IRQ`
happens. -/
theorem witness_irqs :
    (after (.tick 21000) (running 21000)).map (·.events) = some [.irq] ∧
    (after (.stimRd 3) (reading 5 6)).map (·.events) = some [.irq] ∧
    (after (.stimWr 3 0) (writing imgA 255 0 0 0)).map (·.events) = some [.irq] ∧
    (after (.stimWr 0 0x80) State.reset).map (fun t => (t.events, t.rnf)) = some ([.irq], true) ∧
    (after (.wrCmd 0xA0) (mount imgRo)).map (fun t => (t.events, t.wp)) = some ([.irq], true) ∧
    (after (.wrCmd 0xDF) State.reset).map (·.events) = some [.irq] := by decide +kernel

/-- `Obligations.DrqEventCauses`, `Obligations.TransitionTable`: each of the three causes of `DRQ_EV` happens. -/
theorem witness_drqs :
    (after (.rdSec 0) { mount imgA with sr := 1 }).map (fun t => (t.st, t.events)) = some (.xferRead, [.drqEv]) ∧
    (after (.wrSec 0) (mount imgA)).map (fun t => (t.st, t.events)) = some (.xferWrite, [.drqEv]) ∧
    (after (.rdAddr 0) State.reset).map (fun t => (t.st, t.events)) = some (.xferRead, [.drqEv]) := by
  decide +kernel

/-- `Obligations.IrqsNeverExceedCommands`: a command that finds its image, an image operation of the host, and programs from
`Idle` (two commands, one of which is replaced and raises nothing) and from an open transfer (one `IRQ` and no
command). -/
theorem witness_program :
    (after (.rdSec 0) { mount imgA with sr := 1 }).map (fun t => (t.st, t.events)) = some (.xferRead, [.drqEv]) ∧
    (∃ t, execHost (.flush 0) (reading 0 6) = .next t) ∧
    (State.reset.perform [.restore 0, .wrCmd 0x10, .tick 0xFFFFFFFF]).map (fun r => irqCount r.2) = some 1 ∧
    ((writing imgA 255 0 0 0).perform [.stimWr 3 0]).map (fun r => irqCount r.2) = some 1 :=
  ⟨by decide +kernel, ⟨_, rfl⟩, by decide +kernel, by decide +kernel⟩

/-- `Obligations.ReadOnlyImageNeverChanges`. -/
theorem witness_read_only :
    (mount imgRo).imageAt 0 = some imgRo ∧ imgRo.readOnly = true ∧
    (∃ t, exec (.wrSec 0) (mount imgRo) = .next t) ∧
    (∃ t, execHost (.flush 0) (mount imgRo) = .next t) ∧ HostOp.flush 0 ≠ .close 0 :=
  ⟨rfl, rfl, ⟨_, rfl⟩, ⟨_, rfl⟩, by decide⟩

/-- `Obligations.TransitionTable`: the rows for a tick and the data accesses that do not end anything, and the last row. -/
theorem witness_transitions :
    (after (.tick 20999) (running 21000)).map (fun t => (t.st, t.events)) = some (.busy, []) ∧
    (after (.rdData 0) (reading 254 256)).map (fun t => (t.st, t.events)) = some (.xferRead, []) ∧
    (after (.wrData 0) (writing imgA 254 0 0 0)).map (fun t => (t.st, t.events)) = some (.xferWrite, []) ∧
    (commandByteOf (.wrTrack 1) = none ∧ dataByteOf (.wrTrack 1) = none) ∧
    (after (.wrTrack 1) (reading 0 6)).map (fun t => (t.st, t.events)) = some (.xferRead, []) := by
  decide +kernel

/-- `Obligations.FailureFlagsLastUntilNextCommand`, first clause: both flags outlast a read. -/
theorem witness_flags_last :
    commandByteOf (.rdStatus 0) = none ∧
    (after (.rdStatus 0) { State.reset with rnf := true }).map (·.rnf) = some true ∧
    (after (.rdStatus 0) { State.reset with wp := true }).map (·.wp) = some true := by decide +kernel

/-- `Obligations.FrameOfBusReads`. -/
theorem witness_frame_reads :
    (∃ t, exec (.rdUnmapped7 0) (reading 0 6) = .next t) ∧ (∃ t, exec (.stimRd 3) (reading 0 6) = .next t) ∧
    (reading 0 6).pos + 1 ≠ (reading 0 6).len ∧ State.reset.st ≠ .xferRead :=
  ⟨⟨_, rfl⟩, ⟨_, rfl⟩, by decide, by decide⟩

/-- `Obligations.FrameOfCommands`: a plain command byte, `WR CMD` and the stimulus. -/
theorem witness_frame_commands :
    commandByteOf (.step 0x1F) = some 0x3F ∧ commandByteOf (.wrCmd 0xFF) = some 0xFF ∧
    commandByteOf (.stimWr 0 0x20) = some 0x20 ∧ commandClass 0x3F ≠ .stepIn ∧
    (after (.step 0x1F) State.reset).map (·.drq) = some false := by decide +kernel

/-- `Obligations.FrameOfRegisterWrites`. -/
theorem witness_frame_writes :
    (∃ t, exec (.wrTrack 1) State.reset = .next t) ∧ (∃ t, exec (.stimWr 2 1) State.reset = .next t) ∧
    (∃ t, exec (.stimWr 4 1) State.reset = .next t) ∧
    (∃ t, exec (.wrData 1) (writing imgA 254 0 0 0) = .next t) ∧
    (writing imgA 254 0 0 0).pos + 1 ≠ (writing imgA 254 0 0 0).len :=
  ⟨⟨_, rfl⟩, ⟨_, rfl⟩, ⟨_, rfl⟩, ⟨_, rfl⟩, by decide⟩

/-- `Obligations.FrameOfHostPort`. -/
theorem witness_frame_host :
    (∃ t, exec (.tick 5) (reading 0 6) = .next t) ∧ (reading 0 6).st ≠ .busy ∧
    (∃ t, exec (.attach 1 0) (mount imgA) = .next t) ∧ (∃ t, exec (.detach 0) (mount imgA) = .next t) ∧
    (∃ t, exec .reset (mount imgA) = .next t) :=
  ⟨⟨_, rfl⟩, by decide, ⟨_, rfl⟩, ⟨_, rfl⟩, ⟨_, rfl⟩⟩

/-- `Obligations.AssemblyLinesExpand`, at the ends of its ranges. -/
theorem witness_lines : 255 < 256 ∧ 3 < 4 ∧ 1 < 2 ∧ (AsmLine.select 3 1).wellFormed = true := by decide +kernel

/-- The memory of a reset machine is in its canonical form: no image is open; an empty store is well formed. -/
theorem witness_memory_wf : State.reset.images = [] ∧ Memory.wf [] = true ∧ imgA.store.wf = true := by
  decide +kernel

end Sys2Proof.Tests
end

section
/-! The statements on the scope of the block: what a step does with what is delivered to it, and the state it starts
in after power-on. -/

namespace Sys2Proof.Machine

/-! ### The step, by what is delivered first (R9, R58) -/

/-- A delivered request that decodes is performed. -/
theorem step_of_request {s : State} {r : Request} {rest : List Input} {i : Instr}
    (hs : s.inputs = .request r :: rest) (hr : decode r = .ok i) :
    step s = exec i (s.withInputs rest) := by
  simp only [step, hs, hr]

/-- A delivered image operation of the host is performed. -/
theorem step_of_host {s : State} {h : HostOp} {rest : List Input} (hs : s.inputs = .host h :: rest) :
    step s = execHost h (s.withInputs rest) := by
  simp only [step, hs]

/-- With nothing delivered the block waits. -/
theorem step_of_inputs_nil {s : State} (hs : s.inputs = []) : step s = .next s.waiting := by
  simp only [step, hs]

/-- A word that fits its format is delivered as the request it stands for. -/
theorem State.withFetchWord_of_requestOf (s : State) {nbits w : Nat} {r : Request}
    (hr : requestOf nbits w = some r) : s.withFetchWord nbits w = s.deliver r := by
  simp only [State.withFetchWord, hr]

/-- Settles O7: each clause is the equation of `step` or `withFetchWord` for its kind of input. -/
theorem stepPerformsDeliveredOperation : Obligations.StepPerformsDeliveredOperation :=
  ⟨fun _ _ _ _ hs hr => step_of_request hs hr, fun _ _ _ hs => step_of_host hs,
    fun _ hs => step_of_inputs_nil hs, fun s _ _ _ hr => s.withFetchWord_of_requestOf hr⟩

/-! ### Power-on (R5, R27, R29) -/

/-- After power-on every slot is empty (R29). -/
@[simp] theorem State.powerOn_slots_get (p : Params) (d : Drive) : (State.powerOn p).slots.get d = none := by
  unfold Slots.get
  split <;> rfl

/-- After power-on no image is open (R29). -/
@[simp] theorem State.powerOn_imageAt (p : Params) (m : Nat) : (State.powerOn p).imageAt m = none := rfl

/-- Power-on leaves an idle sequencer with no transfer and no failure. -/
theorem State.powerOn_sequencerSound (p : Params) : (State.powerOn p).SequencerSound :=
  State.sequencerSound_of_idle rfl rfl rfl rfl (Nat.le_refl 0) (.inl rfl) List.length_replicate
    (fun h => Bool.false_ne_true h.1)

/-- Power-on meets the invariant: with every slot empty and no image open, its parts on these hold of nothing. -/
theorem State.powerOn_inv {p : Params} (hp : p.Valid) : (State.powerOn p).Inv where
  params := hp
  sequencer := State.powerOn_sequencerSound p
  slots d m h := by simp at h
  images m img h := by simp at h

/-- The suggested parameters are admissible (R5). -/
theorem suggestedParams_valid : Params.suggested.Valid := by decide

/-- Settles O12: `powerOn_inv`, and `State.reset` is power-on with the suggested parameters by definition. -/
theorem powerOnMeetsInvariant : Obligations.PowerOnMeetsInvariant :=
  ⟨fun _ hp => State.powerOn_inv hp, rfl, State.powerOn_inv suggestedParams_valid⟩

end Sys2Proof.Machine
end

section
/-! The statements on the state: what every step keeps of it, what that says of the reachable states, and what the
status byte and `NOTREADY` show of it. -/

namespace Sys2Proof.Machine

section

variable {s t : State}

/-! ### The sequencer part of the invariant, by the shared operations that leave it -/

/-- Where `RNF` or `WP` can be set the sequencer is in `Idle`, so elsewhere both are clear (R27(e)). -/
theorem State.SequencerSound.noFailure (h : s.SequencerSound) (hst : s.st ≠ .idle) :
    s.rnf = false ∧ s.wp = false := by
  obtain ⟨_, _, _, _, _, hflags, _⟩ := h
  exact ⟨Bool.eq_false_iff.2 fun c => hst (hflags (.inl c)), Bool.eq_false_iff.2 fun c => hst (hflags (.inr c))⟩

/-- One failure never leaves both flags set (R76). -/
theorem State.raise_flags_exclusive (f : Failure) (hr : s.rnf = false) (hw : s.wp = false) :
    ¬((s.raise f).rnf = true ∧ (s.raise f).wp = true) := by
  cases f <;> simp [State.raise, hr, hw]

/-- `COMPLETE()` leads to `Idle` from any position inside the buffer (R103). -/
theorem State.complete_sequencerSound (hp : s.pos.toNat ≤ s.len.toNat)
    (hl : s.len = 0 ∨ s.len = 6 ∨ s.len = 256) (hbuf : s.buf.length = bufSize)
    (hf : ¬(s.rnf = true ∧ s.wp = true)) : s.complete.SequencerSound :=
  State.sequencerSound_of_idle rfl rfl rfl rfl hp hl hbuf hf

/-- `FAIL(flag)` leads to `Idle` with one flag set (R158). -/
theorem State.failWith_sequencerSound (f : Failure) (hr : s.rnf = false) (hw : s.wp = false)
    (hbuf : s.buf.length = bufSize) : (s.failWith f).SequencerSound :=
  State.complete_sequencerSound (Nat.le_refl 0) (.inl rfl) ((congrArg List.length (s.raise_buf f)).trans hbuf)
    (State.raise_flags_exclusive f hr hw)

/-- The abort leads to `Idle` without a failure (R135, R136). -/
theorem State.abort_sequencerSound (hd : s.drq = false) (hr : s.rnf = false) (hbuf : s.buf.length = bufSize) :
    s.abort.SequencerSound :=
  State.sequencerSound_of_idle rfl rfl hd rfl (Nat.le_refl 0) (.inl rfl) hbuf
    fun c => Bool.false_ne_true (hr.symm.trans c.1)

/-- `ENTER_BUSY(d)` leads to `Busy` with a delay to run (R27(b)). -/
theorem State.enterBusy_sequencerSound {d : Ticks} (hdl : 1 ≤ d.toNat) (hd : s.drq = false) (hr : s.rnf = false)
    (hw : s.wp = false) (hbuf : s.buf.length = bufSize) : (s.enterBusy d).SequencerSound := by
  refine ⟨?_, fun _ => ⟨rfl, hd, hdl⟩, ?_, ?_, Nat.le_refl 0, ?_, .inl rfl, hbuf, ?_⟩ <;> simp [hr, hw]

/-- `OPEN_XFER(dir, n)` leads to a transfer of `n` bytes, none of them moved yet (R27(c), R27(d)). -/
theorem State.openXfer_sequencerSound {dir : Dir} {n : BufCount} (hn : n = 256 ∨ (n = 6 ∧ dir = .read))
    (hr : s.rnf = false) (hw : s.wp = false) (hbuf : s.buf.length = bufSize) :
    (s.openXfer dir n).SequencerSound := by
  have hl : n = 6 ∨ n = 256 := hn.symm.imp_left And.left
  have hpos : 0 < n.toNat := by rcases hl with rfl | rfl <;> decide
  refine ⟨?_, ?_, fun _ => ⟨rfl, rfl, rfl, hl, hpos⟩, ?_, Nat.zero_le _, ?_, .inr hl, hbuf, ?_⟩
  · cases dir <;> simp
  · cases dir <;> simp
  · rcases hn with rfl | ⟨_, rfl⟩ <;> simp
  · simp [hr, hw]
  · simp [hr]

/-- A data access that is not the last of its transfer moves the position by one and stays in the transfer (R93,
R99). -/
theorem State.SequencerSound.advance {d : Byte} {b : List Byte} (h : s.SequencerSound)
    (hst : s.st = .xferRead ∨ s.st = .xferWrite) (hp : s.pos + 1 ≠ s.len) (hb : b.length = bufSize) :
    ({ s with dr := d, buf := b, pos := s.pos + 1 } : State).SequencerSound := by
  obtain ⟨hidle, hbusy, hxfer, hwrite, _, hflags, hlen, _, hboth⟩ := h
  obtain ⟨hb1, hd1, hdl1, hl1, hlt⟩ := hxfer hst
  have hnext := BufCount.toNat_next hlt
  have hne : (s.pos + 1).toNat ≠ s.len.toNat := fun c => hp (BitVec.eq_of_toNat_eq c)
  have hlt' : (s.pos + 1).toNat < s.len.toNat := by omega
  exact ⟨hidle, hbusy, fun _ => ⟨hb1, hd1, hdl1, hl1, hlt'⟩, hwrite, Nat.le_of_lt hlt', hflags, hlen, hb, hboth⟩

/-- A tick that does not use the delay of a running command up leaves it in `Busy` with a delay to run, and
changes nothing elsewhere (R140). -/
theorem State.SequencerSound.countDown {n : Ticks} (h : s.SequencerSound)
    (hn : ¬(s.st = .busy ∧ s.delay.toNat ≤ n.toNat)) :
    ({ s with delay := BitVec.ofNat 32 (s.delay.toNat - n.toNat) } : State).SequencerSound := by
  obtain ⟨hidle, hbusy, hxfer, hrest⟩ := h
  have hzero : s.delay = 0 → BitVec.ofNat 32 (s.delay.toNat - n.toNat) = 0 := fun c =>
    (Ticks.saturate_eq_zero _ _).2 (by simp [c])
  refine ⟨fun c => ?_, fun c => ?_, fun c => ?_, hrest⟩
  · obtain ⟨hb, hd, hdl⟩ := hidle c
    exact ⟨hb, hd, hzero hdl⟩
  · obtain ⟨hb, hd, _⟩ := hbusy c
    have hlt : n.toNat < s.delay.toNat := Nat.lt_of_not_le fun hle => hn ⟨c, hle⟩
    exact ⟨hb, hd, (Ticks.toNat_saturate _ _).symm ▸ Nat.sub_pos_of_lt hlt⟩
  · obtain ⟨hb, hd, hdl, hlp⟩ := hxfer c
    exact ⟨hb, hd, hzero hdl, hlp⟩

/-! ### What keeps the whole invariant -/

/-- The start of an operation keeps the invariant. -/
theorem State.Inv.clearOutputs (h : s.Inv) : s.clearOutputs.Inv := h.of_same rfl rfl rfl h.sequencer

/-- Delivering other inputs keeps the invariant. -/
theorem State.Inv.withInputs (h : s.Inv) (ins : List Input) : (s.withInputs ins).Inv :=
  h.of_same rfl rfl rfl h.sequencer

/-- A result for the host keeps the invariant. -/
theorem State.Inv.hostAnswer (h : s.Inv) (r : HostResult) : (s.hostAnswer r).Inv :=
  h.of_same rfl rfl rfl h.sequencer

/-- Putting a sound image in the place of an open one keeps the invariant (R28). -/
theorem State.Inv.setImage {m : Nat} {img img' : Image} (h : s.Inv) (hm : s.imageAt m = some img)
    (h' : img'.Sound) : (s.setImage m (some img')).Inv :=
  have hset := State.inv_setImage hm h.slots h.images h'
  ⟨h.params, h.sequencer, hset.1, hset.2⟩

/-- Storing in a slot the reference of an open image, or none, keeps the invariant (R141, R142). -/
theorem State.Inv.setSlot {v : Option Nat} (h : s.Inv) (d : Drive)
    (hv : ∀ m, v = some m → (s.imageAt m).isSome = true) : ({ s with slots := s.slots.set d v } : State).Inv := by
  refine ⟨h.params, h.sequencer, fun e m he => ?_, h.images⟩
  by_cases hed : e = d
  · subst hed
    exact hv m ((Slots.get_set_same s.slots e v).symm.trans he)
  · exact h.slots e m ((Slots.get_set_other s.slots d e v hed).symm.trans he)

/-- One more open image keeps the invariant if it is sound (R48). -/
theorem State.Inv.pushImage {img : Image} (h : s.Inv) (hi : img.Sound) :
    ({ s with images := s.images ++ [some img] } : State).Inv := by
  refine ⟨h.params, h.sequencer, fun d m hd => ?_, fun m im hm => ?_⟩
  · rw [State.imageAt_push]
    split
    · rfl
    · exact h.slots d m hd
  · rw [State.imageAt_push] at hm
    split at hm
    · cases hm
      exact hi
    · exact h.images m im hm

/-- Closing an image that no slot holds keeps the invariant (R47, R183). -/
theorem State.Inv.closeImage {m : Nat} {img : Image} (h : s.Inv) (hm : s.imageAt m = some img)
    (hfree : s.slots.holds m = false) : (s.setImage m none).Inv := by
  have hlt := State.imageAt_lt s hm
  refine ⟨h.params, h.sequencer, fun d k hd => ?_, fun k im hk => ?_⟩
  · have hkm : k ≠ m := fun c => by
      rw [(Slots.holds_iff s.slots m).2 ⟨d, c ▸ hd⟩] at hfree
      cases hfree
    rw [State.imageAt_setImage s m k _ hlt, if_neg hkm]
    exact h.slots d k hd
  · rw [State.imageAt_setImage s m k _ hlt] at hk
    split at hk
    · cases hk
    · exact h.images k im hk

/-- A command write keeps the sequencer part: it enters `Busy`, opens a transfer, fails or aborts (R96). -/
theorem State.Inv.writeCommand_sequencerSound {v : Byte} (h : s.Inv) (ht : s.writeCommand v = .next t) :
    t.SequencerSound := by
  obtain ⟨_, _, _, _, _, _, _, hbuf, _⟩ := h.sequencer
  by_cases ho : isTypeOne (commandClass v) = true
  · obtain ⟨track, d, e, hd, _⟩ := State.typeOne_eq s v ho
    rw [e] at ht
    cases ht
    exact State.enterBusy_sequencerSound (hd h.params) rfl rfl rfl hbuf
  rcases State.writeCommand_cases s v with ⟨c, e⟩ | ⟨c, e⟩ | ⟨c, e⟩ | ⟨c, e⟩ | ⟨c, e⟩ | ⟨c, e⟩ | ⟨c, e⟩ | ⟨c, e⟩ |
    ⟨c, e⟩ | ⟨c, e⟩ <;> rw [e] at ht
  iterate 5 exact absurd (by rw [c]; rfl) ho
  · rcases State.rdSecBody_next ht with ⟨m, img, r, _, hr, rfl⟩ | ⟨_, rfl⟩
    · exact State.openXfer_sequencerSound (.inl rfl) rfl rfl (readSector_length hr)
    · exact State.failWith_sequencerSound _ rfl rfl hbuf
  · rcases State.wrSecBody_next ht with ⟨_, rfl⟩ | ⟨_, f, rfl⟩
    · exact State.openXfer_sequencerSound (.inl rfl) rfl rfl zeroBuffer_length
    · exact State.failWith_sequencerSound f rfl rfl hbuf
  · cases ht
    exact State.openXfer_sequencerSound (.inr ⟨rfl, rfl⟩) rfl rfl (by simp [State.addressId, hbuf, bufSize])
  · cases ht
    have ha := State.abort_sequencerSound (s := s.prologue v) rfl rfl hbuf
    cases v.getLsbD 3 <;> exact ha
  · cases ht
    exact State.abort_sequencerSound rfl rfl hbuf

/-- A command write keeps the invariant. -/
theorem State.Inv.writeCommand {v : Byte} (h : s.Inv) (ht : s.clearOutputs.writeCommand v = .next t) : t.Inv := by
  obtain ⟨hslots, himages, _, _, _, hparams, _⟩ := writeCommand_frame ht
  exact h.of_same hparams hslots himages (h.clearOutputs.writeCommand_sequencerSound ht)

/-- The last data write of a transfer keeps the invariant: it completes, with one image written or with one
failure (R99, R102). -/
theorem State.Inv.lastDataWrite {v : Byte} (h : s.Inv) (hst : s.st = .xferWrite) (hp : s.pos + 1 = s.len)
    (ht : (s.collectByte v).commit = .next t) : t.Inv := by
  obtain ⟨hr, hw⟩ := h.sequencer.noFailure (by simp [hst])
  obtain ⟨_, _, _, _, _, _, hl, hbuf, _⟩ := h.sequencer
  have hb : (s.collectByte v).buf.length = bufSize := List.length_set.trans hbuf
  have hle : (s.collectByte v).pos.toNat ≤ (s.collectByte v).len.toNat := Nat.le_of_eq (congrArg BitVec.toNat hp)
  rcases State.commit_next ht with ⟨m, img, img', ha, hwr, rfl⟩ | ⟨f, rfl⟩
  · have hm : s.imageAt m = some img := ((State.activeSlot_image _).1 ha).2
    exact (h.setImage hm ((h.images m img hm).writeSector hb hwr)).of_same rfl rfl rfl
      (State.complete_sequencerSound hle hl hb fun c => Bool.false_ne_true (hr.symm.trans c.1))
  · refine h.of_same (by simp) (by simp) (by simp) (State.complete_sequencerSound ?_ ?_ ?_ ?_)
    · simpa using hle
    · simpa using hl
    · simpa using hb
    · exact State.raise_flags_exclusive f hr hw

/-- Every way an operation answers a next state keeps the invariant. -/
theorem State.Inv.execCase {sh : Shape} (h : s.Inv) (hc : ExecCase s t sh) : t.Inv := by
  obtain ⟨_, _, _, _, hpl, _, hl, hbuf, hboth⟩ := h.sequencer
  cases hc with
  | command v hv => exact h.writeCommand hv
  | read r v e => exact e ▸ h.of_same rfl rfl rfl h.sequencer
  | readPlain hst e => exact e ▸ h.of_same rfl rfl rfl h.sequencer
  | readDeliver hst hp e =>
    exact e ▸ h.of_same rfl rfl rfl (h.sequencer.advance (d := s.nextByte) (.inl hst) hp hbuf)
  | readLast hst hp e =>
    exact e ▸ h.of_same rfl rfl rfl
      (State.complete_sequencerSound (Nat.le_of_eq (congrArg BitVec.toNat hp)) hl hbuf hboth)
  | setTrack v e => exact e ▸ h.of_same rfl rfl rfl h.sequencer
  | setSector v e => exact e ▸ h.of_same rfl rfl rfl h.sequencer
  | writePlain v hst e => exact e ▸ h.of_same rfl rfl rfl h.sequencer
  | writeCollect v hst hp e =>
    exact e ▸ h.of_same rfl rfl rfl (h.sequencer.advance (d := v) (.inr hst) hp (List.length_set.trans hbuf))
  | writeCommit v hst hp hc => exact h.clearOutputs.lastDataWrite hst hp hc
  | setControl v e => exact e ▸ h.of_same rfl rfl rfl h.sequencer
  | nothing e => exact e ▸ h.clearOutputs
  | tickExpires n hst hle e =>
    exact e ▸ h.of_same rfl rfl rfl (State.complete_sequencerSound hpl hl hbuf hboth)
  | tickCounts n hn e => exact e ▸ h.of_same rfl rfl rfl (h.sequencer.countDown hn)
  | attach d m e =>
    refine e ▸ h.clearOutputs.setSlot d fun k hk => ?_
    split at hk
    next hm => cases hk; exact hm
    next => cases hk
  | detach d e => exact e ▸ h.clearOutputs.setSlot d fun k hk => by cases hk
  | reset e =>
    exact e ▸ h.of_same rfl rfl rfl (State.sequencerSound_of_idle rfl rfl rfl rfl (Nat.le_refl 0) (.inl rfl) hbuf
      fun c => Bool.false_ne_true c.1)

/-! ### The image operations of the host (R44 to R48) -/

/-- Every way an image operation of the host answers a next state. -/
inductive HostCase (s t : State) : HostOp → Prop where
  | opens (bytes : List Byte) (want granted : Bool) (img : Image)
      (result : openImage bytes want granted s.params.diskInfoTypeOffset = .ok img)
      (eq : t = { s.clearOutputs with images := s.images ++ [some img] }.hostAnswer (.opened s.images.length)) :
      HostCase s t (.openImage bytes want granted)
  | openFails (bytes : List Byte) (want granted : Bool) (e : ImageError)
      (result : openImage bytes want granted s.params.diskInfoTypeOffset = .error e)
      (eq : t = s.clearOutputs.hostAnswer (.failed e)) : HostCase s t (.openImage bytes want granted)
  | flushes (m : Nat) (img : Image) (image : s.imageAt m = some img)
      (eq : t = (s.clearOutputs.setImage m (some (flushImage img))).hostAnswer .done) : HostCase s t (.flush m)
  | closes (m : Nat) (img : Image) (image : s.imageAt m = some img) (free : s.slots.holds m = false)
      (eq : t = (s.clearOutputs.setImage m none).hostAnswer .done) : HostCase s t (.close m)
  | reads (m tr sd sec : Nat) (img : Image) (r : List Byte) (image : s.imageAt m = some img)
      (result : readSector img tr sd sec = .ok r) (eq : t = s.clearOutputs.hostAnswer (.sector r)) :
      HostCase s t (.readSector m tr sd sec)
  | readFails (m tr sd sec : Nat) (img : Image) (e : ImageError) (image : s.imageAt m = some img)
      (result : readSector img tr sd sec = .error e) (eq : t = s.clearOutputs.hostAnswer (.failed e)) :
      HostCase s t (.readSector m tr sd sec)
  | writes (m tr sd sec : Nat) (data : Vector Byte 256) (img img' : Image) (image : s.imageAt m = some img)
      (result : writeSector img tr sd sec data.toList = .ok img')
      (eq : t = (s.clearOutputs.setImage m (some img')).hostAnswer .done) :
      HostCase s t (.writeSector m tr sd sec data)
  | writeFails (m tr sd sec : Nat) (data : Vector Byte 256) (img : Image) (e : ImageError)
      (image : s.imageAt m = some img) (result : writeSector img tr sd sec data.toList = .error e)
      (eq : t = s.clearOutputs.hostAnswer (.failed e)) : HostCase s t (.writeSector m tr sd sec data)

/-- The cases of `HostCase` are all there are. -/
theorem execHost_case {op : HostOp} (h : execHost op s = .next t) : HostCase s t op := by
  cases op with
  | openImage bytes want granted =>
    simp only [execHost, State.hostOpen, State.clearOutputs_params] at h
    split at h
    next img ho => cases h; exact .opens _ _ _ img ho rfl
    next e ho => cases h; exact .openFails _ _ _ e ho rfl
  | flush m =>
    simp only [execHost, State.hostFlush, State.clearOutputs_imageAt] at h
    split at h
    next => cases h
    next img hm => cases h; exact .flushes m img hm rfl
  | close m =>
    simp only [execHost, State.hostClose, State.clearOutputs_imageAt] at h
    split at h
    next => cases h
    next img hm =>
      split at h
      next => cases h
      next hf => cases h; exact .closes m img hm (Bool.eq_false_iff.2 hf) rfl
  | readSector m tr sd sec =>
    simp only [execHost, State.hostReadSector, State.clearOutputs_imageAt] at h
    split at h
    next => cases h
    next img hm =>
      split at h
      next r hr => cases h; exact .reads m _ _ _ img r hm hr rfl
      next e hr => cases h; exact .readFails m _ _ _ img e hm hr rfl
  | writeSector m tr sd sec data =>
    simp only [execHost, State.hostWriteSector, State.clearOutputs_imageAt] at h
    split at h
    next => cases h
    next img hm =>
      split at h
      next img' hw => cases h; exact .writes m _ _ _ data img img' hm hw rfl
      next e hw => cases h; exact .writeFails m _ _ _ data img e hm hw rfl

/-- Every image operation of the host keeps the invariant. -/
theorem State.Inv.execHost {op : HostOp} (h : s.Inv) (ht : Machine.execHost op s = .next t) : t.Inv := by
  cases execHost_case ht with
  | opens bytes want granted img ho e =>
    obtain ⟨_, _, _, _, hoffset⟩ := h.params
    exact e ▸ (h.clearOutputs.pushImage (openImage_sound hoffset ho)).hostAnswer _
  | openFails _ _ _ err _ e => exact e ▸ h.clearOutputs.hostAnswer _
  | flushes m img hm e => exact e ▸ (h.clearOutputs.setImage hm (h.images m img hm).flushImage).hostAnswer _
  | closes m img hm hf e => exact e ▸ (h.clearOutputs.closeImage hm hf).hostAnswer _
  | reads _ _ _ _ _ _ _ _ e => exact e ▸ h.clearOutputs.hostAnswer _
  | readFails _ _ _ _ _ _ _ _ e => exact e ▸ h.clearOutputs.hostAnswer _
  | writes m _ _ _ data img img' hm hw e =>
    exact e ▸ (h.clearOutputs.setImage hm ((h.images m img hm).writeSector (by simp) hw)).hostAnswer _
  | writeFails _ _ _ _ _ _ _ _ _ e => exact e ▸ h.clearOutputs.hostAnswer _

/-! ### The step and the reachable states -/

/-- Every step keeps the invariant, by what is delivered first. -/
theorem State.Inv.step (h : s.Inv) (ht : Machine.step s = .next t) : t.Inv := by
  rcases hs : s.inputs with _ | ⟨⟨r⟩ | ⟨op⟩, rest⟩
  · rw [step_of_inputs_nil hs] at ht
    cases ht
    exact h.clearOutputs
  · rcases hd : decode r with why | i
    · simp only [Machine.step, hs, hd] at ht
      cases ht
    · rw [step_of_request hs hd] at ht
      exact (h.withInputs rest).execCase (exec_case ht)
  · rw [step_of_host hs] at ht
    exact (h.withInputs rest).execHost ht

/-- Every reachable state of a block with admissible parameters meets the invariant (R27). -/
theorem Reachable.inv {p : Params} (hp : p.Valid) (h : Reachable p s) : s.Inv := by
  induction h with
  | powerOn => exact State.powerOn_inv hp
  | deliver s ins _ ih => exact ih.withInputs ins
  | step s t _ ht ih => exact ih.step ht

end

/-- Settles O13: `State.Inv.step`. -/
theorem stepKeepsInvariant : Obligations.StepKeepsInvariant := fun _ _ h ht => h.step ht

/-- Settles O14: the parts (a) to (e) are the first six of the sequencer part of `Reachable.inv`. -/
theorem reachableStatesMeetSequencerInvariant : Obligations.ReachableStatesMeetSequencerInvariant := by
  intro p s hp hs
  obtain ⟨hidle, hbusy, hxfer, hwrite, hpos, hflags, _⟩ := (hs.inv hp).sequencer
  exact ⟨hidle, hbusy, hxfer, hwrite, hpos, hflags⟩

/-! ### The status byte and `NOTREADY` (R16, R17, R76) -/

/-- `NOTREADY` is that the selected slot is empty (R16). -/
theorem State.notReady_eq_true (s : State) : s.notReady = true ↔ s.slots.get s.drive = none :=
  Option.isNone_iff_eq_none

/-- The status byte as the weighted sum of its five flags. -/
theorem State.status_toNat (s : State) :
    s.status.toNat = s.busy.toNat + 2 * s.drq.toNat + 16 * s.rnf.toNat + 64 * s.wp.toNat + 128 * s.notReady.toNat := by
  have bits : ∀ n w r d b : Bool,
      (BitVec.ofBool n ++ BitVec.ofBool w ++ 0#1 ++ BitVec.ofBool r ++ 0#1 ++ 0#1 ++ BitVec.ofBool d ++
        BitVec.ofBool b).toNat = b.toNat + 2 * d.toNat + 16 * r.toNat + 64 * w.toNat + 128 * n.toNat := by decide
  rw [State.status_of rfl rfl rfl rfl rfl]
  exact bits _ _ _ _ _

/-- Bits 2, 3 and 5 of the status byte are 0 (R15, R17). -/
theorem State.status_zero_bits (s : State) :
    s.status.getLsbD 2 = false ∧ s.status.getLsbD 3 = false ∧ s.status.getLsbD 5 = false := by
  have bits : ∀ n w r d b : Bool,
      let v := BitVec.ofBool n ++ BitVec.ofBool w ++ 0#1 ++ BitVec.ofBool r ++ 0#1 ++ 0#1 ++ BitVec.ofBool d ++
        BitVec.ofBool b
      v.getLsbD 2 = false ∧ v.getLsbD 3 = false ∧ v.getLsbD 5 = false := by decide
  rw [State.status_of rfl rfl rfl rfl rfl]
  exact bits _ _ _ _ _

/-- Settles O16: both forms of the read answer `State.status` and leave the rest of the state alone. -/
theorem statusReadReturnsStatusByte : Obligations.StatusReadReturnsStatusByte := by
  refine ⟨rfl, fun d s => ⟨s.status, rfl, rfl, ?_, s.status_zero_bits⟩⟩
  have hn : s.notReady.toNat = if s.slots.get s.drive = none then 1 else 0 := by
    simp only [← State.notReady_eq_true]
    cases s.notReady <;> rfl
  rw [State.status_toNat, hn]

/-- Only the four operations that store a slot or `CR` can change either. -/
theorem ExecCase.slots_cr {s t : State} {sh : Shape} (h : ExecCase s t sh) :
    (t.slots = s.slots ∧ t.cr = s.cr) ∨ (∃ v, sh = .setControl v) ∨ (∃ d m, sh = .attach d m) ∨
      (∃ d, sh = .detach d) ∨ sh = .reset := by
  cases h with
  | command v hv =>
    obtain ⟨hslots, _, _, _, hcr, _⟩ := writeCommand_frame hv
    exact .inl ⟨hslots, hcr⟩
  | writeCommit v _ _ hc =>
    obtain ⟨_, _, _, _, _, _, _, _, hcr, _, _, _, _, _, _, _, hslots, _⟩ := commit_frame hc rfl
    exact .inl ⟨hslots, hcr⟩
  | setControl v => exact .inr (.inl ⟨v, rfl⟩)
  | attach d m => exact .inr (.inr (.inl ⟨d, m, rfl⟩))
  | detach d => exact .inr (.inr (.inr (.inl ⟨d, rfl⟩)))
  | reset => exact .inr (.inr (.inr (.inr rfl)))
  | _ => subst t; exact .inl ⟨rfl, rfl⟩

/-- Settles O18: `NOTREADY` reads the slots and `CR` only, and `ExecCase.slots_cr` names what can change these. -/
theorem notReadyFollowsSlotAndSelection : Obligations.NotReadyFollowsSlotAndSelection := by
  refine ⟨State.notReady_eq_true, fun i s t ht hne => ?_⟩
  obtain ⟨_, _, hattach, hdetach, hreset, _, _, hcontrol⟩ := shapeOf_iff i
  rcases (exec_case ht).slots_cr with ⟨hslots, hcr⟩ | ⟨v, e⟩ | ⟨d, m, e⟩ | ⟨d, e⟩ | e
  · exact absurd (State.notReady_congr hslots hcr) hne
  · rcases (hcontrol v).2 e with hi | hi
    · exact .inl ⟨v, hi⟩
    · exact .inr (.inl ⟨v, hi⟩)
  · exact .inr (.inr (.inl ⟨d, m, (hattach d m).2 e⟩))
  · exact .inr (.inr (.inr (.inl ⟨d, (hdetach d).2 e⟩)))
  · exact .inr (.inr (.inr (.inr (hreset.2 e))))

/-- After power-on the selected slot is empty, whatever `RESET_CONTROL` selects (R29). -/
@[simp] theorem State.powerOn_notReady (p : Params) : (State.powerOn p).notReady = true :=
  (State.notReady_eq_true _).2 (State.powerOn_slots_get p _)

/-- After power-on the status byte shows `NOTREADY` and no other flag (R29). -/
theorem State.powerOn_status (p : Params) : (State.powerOn p).status = 0x80 := by
  rw [State.status_of (w := false) (r := false) (d := false) (b := false) (State.powerOn_notReady p)
    rfl rfl rfl rfl]
  rfl

/-- Settles O10: the registers and flags are those `State.powerOn` gives; `powerOn_notReady` and `powerOn_status` say
what is computed from them. -/
theorem powerOnState : Obligations.PowerOnState := fun p =>
  ⟨rfl, State.powerOn_slots_get p, State.powerOn_notReady p, rfl, rfl, rfl, rfl, rfl, rfl, rfl, rfl, rfl, rfl, rfl,
    State.powerOn_status p⟩

end Sys2Proof.Machine
end

section
/-! The statements on the images and their stores: the addressing engine, `open`, what the host does to an image, and
which operation changes a store. -/

namespace Sys2Proof.Machine

/-! ### The addressing engine (R43 to R45) -/

/-- Settles O42: the product `t * sides` is at most 506, and the rest is linear. -/
theorem addressingFunction : Obligations.AddressingFunction := by
  intro img t s sec
  refine ⟨rfl, ?_, fun ht hsides hs hsec => ?_⟩
  · rw [sectorOffset_eq]
    omega
  · have hprod : t * img.sides ≤ 253 * 2 := Nat.mul_le_mul ht hsides
    rw [sectorOffset_eq]
    omega

/-- The range test fails where one of the three numbers lies outside the geometry. -/
theorem inGeometry_eq_false_iff (img : Image) (t s sec : Nat) :
    inGeometry img t s sec = false ↔ t ≥ img.tracks ∨ s ≥ img.sides ∨ sec ≥ 16 := by
  rw [Bool.eq_false_iff, ne_eq, inGeometry_iff]
  omega

/-- A sector read fails at the range test or, inside the geometry, at the store's end. -/
theorem readSector_error (img : Image) (t s sec : Nat) (e : ImageError) :
    readSector img t s sec = .error e ↔
      (inGeometry img t s sec = false ∧ e = .addressOutOfRange) ∨
      (inGeometry img t s sec = true ∧ img.size < sectorOffset img t s sec + 256 ∧ e = .ioFault) := by
  unfold readSector
  split
  · next hg =>
    split
    · next hs => simp [hg, Nat.not_lt.2 hs]
    · next hs => simp [hg, Nat.lt_of_not_le hs, eq_comm]
  · next hg => simp [hg, eq_comm]

/-- Settles O43: `readSector_error` and `readSector_ok`, the bytes by `Memory.getElem_readRange`. -/
theorem readSectorPort : Obligations.ReadSectorPort := by
  intro img t s sec
  refine ⟨fun hout => ?_, fun ht hs hsec => ?_⟩
  · exact (readSector_error ..).2 (.inl ⟨(inGeometry_eq_false_iff ..).2 hout, rfl⟩)
  · have hg := (inGeometry_iff img t s sec).2 ⟨ht, hs, hsec⟩
    refine ⟨fun hpast => (readSector_error ..).2 (.inr ⟨hg, hpast, rfl⟩), fun hfits => ?_⟩
    refine ⟨_, (readSector_ok ..).2 ⟨hg, hfits, rfl⟩, Memory.length_readRange .., fun k hk => ?_⟩
    rw [List.getElem?_eq_getElem (by simpa using hk), Memory.getElem_readRange]

/-- Settles O44: `writeSector_error` and `writeSector_ok`, the bytes by `Memory.read_writeRange`. -/
theorem writeSectorPort : Obligations.WriteSectorPort := by
  intro img t s sec data hdata
  refine ⟨fun hro => (writeSector_error ..).2 (.inl ⟨hro, rfl⟩),
    fun hrw => ⟨fun hout => ?_, fun ht hs hsec => ?_⟩⟩
  · exact (writeSector_error ..).2 (.inr (.inl ⟨hrw, (inGeometry_eq_false_iff ..).2 hout, rfl⟩))
  · have hg := (inGeometry_iff img t s sec).2 ⟨ht, hs, hsec⟩
    refine ⟨fun hpast => (writeSector_error ..).2 (.inr (.inr ⟨hrw, hg, hpast, rfl⟩)), fun hfits => ?_⟩
    refine ⟨_, (writeSector_ok ..).2 ⟨hrw, hg, hfits, rfl⟩, rfl, fun k hk => ?_, fun a ha => ?_⟩
    · have hkd : k < data.length := by omega
      simp [Memory.read_writeRange, hkd]
    · have hapart : ¬(sectorOffset img t s sec ≤ a ∧ a < sectorOffset img t s sec + data.length) := by omega
      simp only [Memory.read_writeRange, dif_neg hapart]

/-! ### `open` and its records (R48 to R54) -/

/-- Settles O45: `openImage_unsupported` and `openImage_supported`; the type code is byte `2048 + b`, which every
admitted length has. -/
theorem geometryResolution : Obligations.GeometryResolution := by
  intro bytes want granted b hb
  refine ⟨openImage_unsupported bytes want granted b, fun hlen => ?_⟩
  obtain ⟨img, hopen, hsize, hstore, hdirty, hro, hgeo, _⟩ := openImage_supported bytes want granted b hlen hb
  have hcode : bytes[2048 + b]? = some (bytes.getD (2048 + b) 0) := by
    have hin : 2048 + b < bytes.length := by omega
    simp [hin]
  refine ⟨img, _, hopen, hcode, hgeo, hsize, fun a ha => ?_, hro, hdirty⟩
  rw [hstore, Memory.read_ofBytes bytes a ha, List.getElem?_eq_getElem ha]

/-- Only an admitted length opens (R49). -/
theorem length_of_openImage_ok {bytes : List Byte} {want granted : Bool} {b : Nat} {img : Image}
    (h : openImage bytes want granted b = .ok img) : bytes.length = 655360 ∨ bytes.length = 327680 := by
  by_contra hlen
  rw [openImage_unsupported bytes want granted b (not_or.1 hlen)] at h
  cases h

/-- What an opened image takes over from the bytes given (R48, R51, R53). -/
theorem openImage_caches {bytes : List Byte} {want granted : Bool} {b : Nat} {img : Image} (hb : b ≤ 233)
    (h : openImage bytes want granted b = .ok img) :
    img.size = bytes.length ∧ img.store = Memory.ofBytes bytes ∧
      img.diskInfo = readDiskInfo ((Memory.ofBytes bytes).readRange 2048 256) b ∧
      img.catalog = scanCatalog { img with catalog := [] } := by
  obtain ⟨img', hopen, hsize, hstore, _, _, _, hinfo, hcat⟩ :=
    openImage_supported bytes want granted b (length_of_openImage_ok h) hb
  rw [hopen] at h
  cases h
  exact ⟨hsize, hstore, hinfo, hcat⟩

/-- A field inside a record, from the record's bytes. -/
theorem field_eq_map {r : List Byte} {off n : Nat} {f : Nat → Byte} (hin : off + n ≤ r.length)
    (hf : ∀ k, k < n → r.getD (off + k) 0 = f k) : field r off n = (List.range n).map f := by
  refine List.ext_getElem (by simp [field]; omega) fun k h1 h2 => ?_
  have hk : k < n := by simpa using h2
  have hkr : off + k < r.length := by omega
  simp [field, ← hf k hk, hkr]

/-- The DiskInfo record from its 23 bytes (R51). -/
theorem readDiskInfo_eq {r : List Byte} {b : Nat} {f : Nat → Byte} (hin : b + 23 ≤ r.length)
    (hf : ∀ k, k < 23 → r.getD (b + k) 0 = f k) :
    readDiskInfo r b = {
      diskTypeCode := f 0, declaredFileCount := f 1, freeSectors := f 3 ++ f 2, formatId := f 4,
      password := [f 5, f 6, f 7, f 8, f 9, f 10, f 11, f 12, f 13], deletedFileCount := f 14,
      label := [f 15, f 16, f 17, f 18, f 19, f 20, f 21, f 22] } := by
  have hfield : ∀ off n, off + n ≤ 23 → field r (b + off) n = (List.range n).map fun k => f (off + k) :=
    fun off n hn => field_eq_map (by omega) fun k hk => by rw [Nat.add_assoc, hf (off + k) (by omega)]
  have hfirst : r.getD b 0 = f 0 := hf 0 (by omega)
  simp (disch := omega) only [readDiskInfo, u16le, hfirst, hf, hfield]
  rfl

/-- Settles O46: byte `k` of sector 8 is byte `2048 + k` of those given, and `readDiskInfo_eq` reads the record from
there; an entry of 16 bytes is read by evaluation. -/
theorem recordLayouts : Obligations.RecordLayouts := by
  refine ⟨fun bytes want granted b img hb hopen f hf => ?_, fun b0 b1 _ _ _ _ _ _ _ _ _ _ _ _ _ _ => ⟨rfl, ?_⟩⟩
  · have hlen := length_of_openImage_ok hopen
    obtain ⟨_, _, hinfo, _⟩ := openImage_caches hb hopen
    rw [hinfo]
    refine readDiskInfo_eq (by simpa using by omega) fun k hk => ?_
    rw [getD_readRange_ofBytes bytes 2048 256 (b + k) (by omega) (by omega), hf, Nat.add_assoc]
  · simp [entryValid]

/-! ### The catalog scan (R53) -/

/-- Bytes `16 k` to `16 k + 15` of an image, its catalog entry `k`. -/
def entryBytes (bytes : List Byte) (k : Nat) : List Byte := (bytes.drop (16 * k)).take 16

/-- The sixteen entries of the bytes of sector `sec` of track 0, side 0. -/
def entriesOfSector (bytes : List Byte) (sec : Nat) : List (List Byte) :=
  (List.range 16).map fun i => entryBytes bytes (16 * sec + i)

/-- A range inside a store opened from a list is that part of the list. -/
theorem Memory.readRange_ofBytes {bytes : List Byte} {off n : Nat} (h : off + n ≤ bytes.length) :
    (Memory.ofBytes bytes).readRange off n = (bytes.drop off).take n := by
  refine List.ext_getElem (by simp; omega) fun i h1 h2 => ?_
  have hi : i < n := by simpa using h1
  rw [Memory.getElem_readRange, Memory.read_ofBytes bytes (off + i) (by omega)]
  simp

/-- A sector splits into the entries that stand at its place in the image. -/
theorem sectorEntries_drop_take (bytes : List Byte) (sec : Nat) :
    sectorEntries ((bytes.drop (256 * sec)).take 256) = entriesOfSector bytes sec := by
  refine List.map_congr_left fun i hi => ?_
  have hi16 : i < 16 := List.mem_range.1 hi
  simp only [field, entryBytes, List.drop_take, List.drop_drop, List.take_take]
  congr 2 <;> omega

/-- The scan of sectors that can all be read and have no more entries than the catalog has room for: the entries up to
the first invalid one. `es` gives the entries of each sector. -/
theorem scanSectors_eq {img : Image} {es : Nat → List (List Byte)} (secs : List Nat) (acc : List CatalogEntry)
    (hread : ∀ sec ∈ secs, ∃ r, readSector img 0 0 sec = .ok r ∧ sectorEntries r = es sec)
    (hlen : ∀ sec ∈ secs, (es sec).length = 16) (hroom : acc.length + 16 * secs.length ≤ 128) :
    scanSectors img acc secs = acc ++ ((secs.flatMap es).takeWhile entryValid).map readCatalogEntry := by
  induction secs generalizing acc with
  | nil => simp [scanSectors]
  | cons sec rest ih =>
    obtain ⟨r, hr, her⟩ := hread sec List.mem_cons_self
    have hsec := hlen sec List.mem_cons_self
    rw [List.length_cons] at hroom
    obtain ⟨hentries, hgoes⟩ := scanEntries_eq (es sec) acc (by omega)
    have htake : ((es sec).takeWhile entryValid).length ≤ 16 := hsec ▸ (List.takeWhile_sublist _).length_le
    rw [List.take_of_length_le (by omega)] at hentries
    simp only [scanSectors, hr, her, List.flatMap_cons, List.takeWhile_append]
    rcases hscan : scanEntries acc (es sec) with ⟨acc', _ | _⟩ <;> rw [hscan] at hentries hgoes
    · obtain ⟨hall, hless⟩ := hgoes.1 rfl
      rw [hall] at hentries ⊢
      obtain rfl : acc' = acc ++ (es sec).map readCatalogEntry := hentries
      simp only [if_true]
      rw [ih _ (fun k hk => hread k (List.mem_cons_of_mem _ hk)) (fun k hk => hlen k (List.mem_cons_of_mem _ hk))
        (by simp; omega)]
      simp
    · by_cases hall : (es sec).takeWhile entryValid = es sec
      · obtain rfl : rest = [] := by
          by_contra hne
          have := List.length_pos_of_ne_nil hne
          exact Bool.noConfusion (hgoes.2 ⟨hall, by omega⟩)
        rw [hall] at hentries
        simpa [hall] using hentries
      · have hshort : ¬((es sec).takeWhile entryValid).length = (es sec).length := fun c =>
          hall ((List.takeWhile_prefix _).eq_of_length c)
        rw [if_neg hshort]
        exact hentries

/-- The entries of the first `n` catalog sectors are the first `16 n` of the image. -/
theorem flatMap_sectors_eq_entries (bytes : List Byte) (n : Nat) :
    (List.range n).flatMap (entriesOfSector bytes) = (List.range (16 * n)).map (entryBytes bytes) := by
  induction n with
  | zero => rfl
  | succ n ih =>
    rw [List.range_succ, List.flatMap_append, ih, Nat.mul_succ, List.range_add, List.map_append]
    simp [entriesOfSector]

/-- The catalog of an opened image is the run of valid entries at its start. -/
theorem openImage_catalog {bytes : List Byte} {want granted : Bool} {b : Nat} {img : Image} (hb : b ≤ 233)
    (h : openImage bytes want granted b = .ok img) :
    img.catalog = (((List.range 128).map (entryBytes bytes)).takeWhile entryValid).map readCatalogEntry := by
  have hlen := length_of_openImage_ok h
  obtain ⟨hsize, hstore, _, hcat⟩ := openImage_caches hb h
  obtain ⟨hgeo, _⟩ := openImage_sound hb h
  rw [hcat, ← flatMap_sectors_eq_entries bytes 8, scanCatalog,
    scanSectors_eq (es := entriesOfSector bytes) _ _ ?_ (by simp [entriesOfSector]) (by simp)]
  · rfl
  · intro sec hsec
    have hsec8 : sec < 8 := List.mem_range.1 hsec
    refine ⟨_, (readSector_ok ..).2 ⟨(inGeometry_iff ..).2 ?_, ?_, rfl⟩, ?_⟩
    · show 0 < img.tracks ∧ 0 < img.sides ∧ sec < 16
      omega
    · show 0 * img.sides * 4096 + 0 * 4096 + sec * 256 + 256 ≤ img.size
      omega
    · have hoff : sectorOffset { img with catalog := [] } 0 0 sec = 256 * sec := by
        rw [sectorOffset_eq]
        omega
      rw [hoff, hstore, Memory.readRange_ofBytes (by omega), sectorEntries_drop_take]

/-- Settles O47: `openImage_catalog`, and a run of 128 entries is no longer than 128. -/
theorem catalogScanStopsAtFirstInvalid : Obligations.CatalogScanStopsAtFirstInvalid := by
  intro bytes want granted b img hb hopen
  obtain ⟨_, _, _, _, hmax⟩ := openImage_sound hb hopen
  exact ⟨openImage_catalog hb hopen, hmax⟩

/-! ### The image operations of the host (R44 to R48, R183) -/

/-- A flush changes the dirty flag of a writable image only (R46). -/
theorem flushImage_eq (img : Image) : flushImage img = { img with dirty := img.readOnly && img.dirty } := by
  obtain ⟨_, _, _, _, readOnly, _, _, _⟩ := img
  cases readOnly <;> rfl

section

variable {s : State} {m : Nat} (tr sd sec : Nat) (data : Vector Byte 256)

/-- No operation on an image goes on where none is open (R47). -/
theorem execHost_imageNotOpen (hm : s.imageAt m = none) :
    execHost (.flush m) s = .refused (.imageNotOpen m) ∧ execHost (.close m) s = .refused (.imageNotOpen m) ∧
      execHost (.readSector m tr sd sec) s = .refused (.imageNotOpen m) ∧
      execHost (.writeSector m tr sd sec data) s = .refused (.imageNotOpen m) := by
  simp [execHost, State.hostFlush, State.hostClose, State.hostReadSector, State.hostWriteSector, hm]

/-- `open` adds the image at the next index, or reports its error (R48). -/
theorem execHost_openImage (bytes : List Byte) (want granted : Bool) :
    (∀ img, openImage bytes want granted s.params.diskInfoTypeOffset = .ok img →
      execHost (.openImage bytes want granted) s =
        .next ({ s.clearOutputs with images := s.images ++ [some img] }.hostAnswer (.opened s.images.length))) ∧
    (∀ e, openImage bytes want granted s.params.diskInfoTypeOffset = .error e →
      execHost (.openImage bytes want granted) s = .next (s.clearOutputs.hostAnswer (.failed e))) := by
  constructor <;> intro _ ho <;> simp [execHost, State.hostOpen, ho]

variable {img : Image} (hm : s.imageAt m = some img)

include hm

/-- `flush` puts the flushed image back (R46). -/
theorem execHost_flush :
    execHost (.flush m) s = .next ((s.clearOutputs.setImage m (some (flushImage img))).hostAnswer .done) := by
  simp [execHost, State.hostFlush, hm]

/-- `close` removes an image that no slot holds, and is refused while one does (R47, R183). -/
theorem execHost_close :
    execHost (.close m) s =
      if s.slots.holds m then .refused (.closeAttached m)
      else .next ((s.clearOutputs.setImage m none).hostAnswer .done) := by
  show s.clearOutputs.hostClose m = _
  unfold State.hostClose
  rw [State.clearOutputs_imageAt, hm]
  rfl

/-- A sector read by another holder answers what the image port gives (R44). -/
theorem execHost_readSector :
    (∀ r, readSector img tr sd sec = .ok r →
      execHost (.readSector m tr sd sec) s = .next (s.clearOutputs.hostAnswer (.sector r))) ∧
    (∀ e, readSector img tr sd sec = .error e →
      execHost (.readSector m tr sd sec) s = .next (s.clearOutputs.hostAnswer (.failed e))) := by
  constructor <;> intro _ hr <;> simp [execHost, State.hostReadSector, hm, hr]

/-- A sector write by another holder puts back the image that the image port gives, or reports its error (R45). -/
theorem execHost_writeSector :
    (∀ img', writeSector img tr sd sec data.toList = .ok img' →
      execHost (.writeSector m tr sd sec data) s =
        .next ((s.clearOutputs.setImage m (some img')).hostAnswer .done)) ∧
    (∀ e, writeSector img tr sd sec data.toList = .error e →
      execHost (.writeSector m tr sd sec data) s = .next (s.clearOutputs.hostAnswer (.failed e))) := by
  constructor <;> intro _ hw <;> simp [execHost, State.hostWriteSector, hm, hw]

end

/-- `ATTACH` of an index without an open image empties the slot (log entry 10). -/
theorem State.attachBody_of_not_open {s : State} {m : Nat} (d : Drive) (hm : s.imageAt m = none) :
    s.attachBody d m = { s with slots := s.slots.set d none } := by
  simp [State.attachBody, hm]

/-- Settles O48: one equation per operation, `Slots.holds_iff` for the two outcomes of a close. -/
theorem hostImageOperations : Obligations.HostImageOperations := by
  refine ⟨fun s bytes want granted => execHost_openImage bytes want granted,
    fun s m tr sd sec data img hm => ?_, fun s m tr sd sec data hm => execHost_imageNotOpen tr sd sec data hm,
    fun s d m hm => congrArg Host.Outcome.next (State.attachBody_of_not_open (s := s.clearOutputs) d hm)⟩
  obtain ⟨hread, hreadFails⟩ := execHost_readSector tr sd sec hm
  obtain ⟨hwrite, hwriteFails⟩ := execHost_writeSector tr sd sec data hm
  refine ⟨flushImage_eq img ▸ execHost_flush hm, fun hfree => ?_, fun d hd => ?_, hread, hreadFails, hwrite,
    hwriteFails⟩
  · rw [execHost_close hm, if_neg]
    · rfl
    · exact fun hheld => ((s.slots.holds_iff m).1 hheld).elim hfree
  · rw [execHost_close hm, if_pos ((s.slots.holds_iff m).2 ⟨d, hd⟩)]

/-! ### Which operation changes an image (R60, R99, R102) -/

/-- The only operation of the block that touches the image table is the last data write of a write transfer, and then
it puts back the one image a sector write at the latch gives. -/
theorem ExecCase.images {s t : State} {sh : Shape} (h : ExecCase s t sh) :
    t.images = s.images ∨
      ∃ v m img img', sh = .dataWrite v ∧ s.st = .xferWrite ∧ s.pos + 1 = s.len ∧ s.activeSlot = .image m img ∧
        writeSector img s.ltrk.toNat s.lside.toNat s.lsec.toNat (s.buf.set s.pos.toNat v) = .ok img' ∧
        t.images = s.images.set m (some img') := by
  cases h with
  | command v hv =>
    obtain ⟨_, himages, _⟩ := writeCommand_frame hv
    exact .inl himages
  | writeCommit v hst hp hc =>
    rcases State.commit_next hc with ⟨m, img, img', ha, hw, rfl⟩ | ⟨f, rfl⟩
    · exact .inr ⟨v, m, img, img', rfl, hst, hp, ha, hw, rfl⟩
    · exact .inl (by simp)
  | _ => subst t; exact .inl rfl

/-- A byte of a store changes only in the image put back, and there only inside the sector written. -/
theorem State.storeByte_ne_of_writeSector {s t : State} {m m' a tr sd sec : Nat} {img img' : Image} {data : List Byte}
    (hm : s.imageAt m = some img) (hw : writeSector img tr sd sec data = .ok img')
    (ht : t.images = s.images.set m (some img')) (hne : t.storeByte m' a ≠ s.storeByte m' a) :
    m' = m ∧ sectorOffset img tr sd sec ≤ a ∧ a < sectorOffset img tr sd sec + data.length := by
  obtain ⟨_, _, _, rfl⟩ := (writeSector_ok ..).1 hw
  have himage (k : Nat) := (State.imageAt_congr (s := s.setImage m (some _)) ht k).trans
    (State.imageAt_setImage s m k _ (State.imageAt_lt s hm))
  unfold State.storeByte at hne
  rw [himage] at hne
  by_cases hmm : m' = m
  · subst hmm
    refine ⟨rfl, ?_⟩
    by_contra hout
    simp [hm, Memory.read_writeRange, hout] at hne
  · simp [hmm] at hne

/-- An operation of the block that changes a byte of a store is the last data write of a write transfer, and the byte
lies in the latched sector of the image in the selected slot. -/
theorem ExecCase.stores_of_storeByte_ne {s t : State} {sh : Shape} {m a : Nat} (h : ExecCase s t sh)
    (hne : t.storeByte m a ≠ s.storeByte m a) :
    ∃ v img, sh = .dataWrite v ∧ s.st = .xferWrite ∧ s.pos + 1 = s.len ∧ s.activeSlot = .image m img ∧
      img.readOnly = false ∧ inGeometry img s.ltrk.toNat s.lside.toNat s.lsec.toNat = true ∧
      sectorOffset img s.ltrk.toNat s.lside.toNat s.lsec.toNat ≤ a ∧
      a < sectorOffset img s.ltrk.toNat s.lside.toNat s.lsec.toNat + s.buf.length := by
  rcases h.images with himages | ⟨v, k, img, img', hsh, hst, hp, ha, hw, himages⟩
  · exact absurd (State.storeByte_congr himages m a) hne
  · obtain ⟨hrw, hg, _⟩ := (writeSector_ok ..).1 hw
    obtain ⟨rfl, hlow, hhigh⟩ :=
      State.storeByte_ne_of_writeSector ((State.activeSlot_image s).1 ha).2 hw himages hne
    rw [List.length_set] at hhigh
    exact ⟨v, img, hsh, hst, hp, ha, hrw, hg, hlow, hhigh⟩

/-- Settles O52: `ExecCase.stores_of_storeByte_ne`, with the operation read off its shape and a buffer of
256 bytes. -/
theorem storeChangesOnlyInLastDataWrite : Obligations.StoreChangesOnlyInLastDataWrite := by
  intro i s t ht
  refine ⟨fun m a hne => ?_, fun hbuf m a hne => ?_⟩ <;>
    obtain ⟨v, img, hsh, hst, hp, ha, hrw, hg, hlow, hhigh⟩ := (exec_case ht).stores_of_storeByte_ne hne
  · exact ⟨hst, hp, v, (dataByteOf_iff i v).2 hsh⟩
  · obtain ⟨hslot, himg⟩ := (State.activeSlot_image s).1 ha
    exact ⟨img, hslot, himg, hrw, hg, hlow, hbuf ▸ hhigh⟩

/-- Putting another image back leaves this one as it was. -/
theorem State.imageAt_of_images_set {s t : State} {m k : Nat} {v : Option Image}
    (ht : t.images = s.images.set k v) (hne : m ≠ k) : t.imageAt m = s.imageAt m := by
  unfold State.imageAt
  simp [ht, Ne.symm hne]

/-- A sector write never succeeds on a read-only image (R45). -/
theorem not_readOnly_of_writeSector_ok {img img' : Image} {tr sd sec : Nat} {data : List Byte}
    (h : writeSector img tr sd sec data = .ok img') : ¬img.readOnly = true := by
  obtain ⟨hrw, _⟩ := (writeSector_ok ..).1 h
  simp [hrw]

/-- An operation of the block leaves a read-only image as it is. -/
theorem ExecCase.imageAt_readOnly {s t : State} {sh : Shape} {m : Nat} {img : Image} (h : ExecCase s t sh)
    (hm : s.imageAt m = some img) (hro : img.readOnly = true) : t.imageAt m = some img := by
  rcases h.images with himages | ⟨_, k, img', _, _, _, _, ha, hw, himages⟩
  · exact (State.imageAt_congr himages m).trans hm
  · obtain ⟨_, hk⟩ := (State.activeSlot_image s).1 ha
    have hne : m ≠ k := fun c => by
      subst c
      cases hm.symm.trans hk
      exact not_readOnly_of_writeSector_ok hw hro
    exact (State.imageAt_of_images_set himages hne).trans hm

/-- An image operation of the host, but the close of the image itself, leaves a read-only image as it is. -/
theorem HostCase.imageAt_readOnly {s t : State} {op : HostOp} {m : Nat} {img : Image} (h : HostCase s t op)
    (hm : s.imageAt m = some img) (hro : img.readOnly = true) (hop : op ≠ .close m) : t.imageAt m = some img := by
  have hlt := State.imageAt_lt s hm
  cases h with
  | opens bytes want granted img' ho e =>
    subst e
    refine (State.imageAt_push s (some img') m).trans ?_
    rw [if_neg (Nat.ne_of_lt hlt), hm]
  | flushes k img' hk e =>
    subst e
    by_cases hmk : m = k
    · subst hmk
      cases hm.symm.trans hk
      refine (State.imageAt_setImage s m m _ hlt).trans ?_
      simp [flushImage, hro]
    · exact (State.imageAt_of_images_set rfl hmk).trans hm
  | closes k img' hk hfree e =>
    subst e
    exact (State.imageAt_of_images_set rfl fun c => hop (by rw [c])).trans hm
  | writes k tr sd sec data img' img'' hk hw e =>
    subst e
    refine (State.imageAt_of_images_set rfl fun c => ?_).trans hm
    subst c
    cases hm.symm.trans hk
    exact not_readOnly_of_writeSector_ok hw hro
  | _ => subst t; exact hm

/-- Settles O53: `ExecCase.imageAt_readOnly` and `HostCase.imageAt_readOnly`. -/
theorem readOnlyImageNeverChanges : Obligations.ReadOnlyImageNeverChanges := fun _ _ _ _ hm hro =>
  ⟨fun _ ht => (exec_case ht).imageAt_readOnly hm hro,
    fun _ ht hop => (execHost_case ht).imageAt_readOnly hm hro hop⟩

end Sys2Proof.Machine
end

section
/-! The statement on a sector written and read back through the registers: one whole write transfer and one whole read
transfer, each as one lemma, and the count of their events. -/

namespace Sys2Proof.Machine

/-! ### Counting events -/

theorem irqCount_append (o p : List (Option Byte × List Event)) : irqCount (o ++ p) = irqCount o + irqCount p := by
  simp [irqCount]

theorem drqCount_append (o p : List (Option Byte × List Event)) : drqCount (o ++ p) = drqCount o + drqCount p := by
  simp [drqCount]

/-- The events of a whole transfer of `n + 1` bytes, operation by operation: `DRQ_EV` at the command, nothing at the
first `n` data accesses, `IRQ` at the last (R123). -/
def transferEvents (n : Nat) : List (List Event) := [.drqEv] :: (List.replicate n [] ++ [[.irq]])

@[simp] theorem transferEvents_length (n : Nat) : (transferEvents n).length = n + 2 := by simp [transferEvents]

/-- A whole transfer emits one event of each kind. -/
theorem counts_of_transferEvents {out : List (Option Byte × List Event)} {n : Nat}
    (h : out.map (·.2) = transferEvents n) : irqCount out = 1 ∧ drqCount out = 1 := by
  have hirq : irqCount out = ((out.map (·.2)).map (List.count Event.irq)).sum := by simp [irqCount, Function.comp_def]
  have hdrq : drqCount out = ((out.map (·.2)).map (List.count Event.drqEv)).sum := by
    simp [drqCount, Function.comp_def]
  rw [hirq, hdrq, h]
  simp [transferEvents]

/-! ### One whole transfer -/

/-- The image after a sector write that succeeds (R45). -/
def Image.withSector (img : Image) (t s sec : Nat) (data : List Byte) : Image :=
  { img with store := img.store.writeRange (sectorOffset img t s sec) data, dirty := true }

/-- The last data write of a write transfer that fits the image stores the whole buffer (R99, R102). -/
theorem exec_lastDataWrite_stores {s : State} {i : Instr} {v : Byte} {m : Nat} {img : Image}
    (hi : dataByteOf i = some v) (hst : s.st = .xferWrite) (hp : s.pos + 1 = s.len) (ha : s.activeSlot = .image m img)
    (hrw : img.readOnly = false) (hg : inGeometry img s.ltrk.toNat s.lside.toNat s.lsec.toNat = true)
    (hfits : sectorOffset img s.ltrk.toNat s.lside.toNat s.lsec.toNat + 256 ≤ img.size) :
    exec i s = .next ((s.clearOutputs.collectByte v).setImage m
      (some (img.withSector s.ltrk.toNat s.lside.toNat s.lsec.toNat (s.buf.set s.pos.toNat v)))).complete := by
  rw [exec_dataWrite_commit s hi hst hp]
  exact State.commit_stores ha ((writeSector_ok ..).2 ⟨hrw, hg, hfits, rfl⟩)

/-- The last byte completes the bytes collected before it. -/
theorem set_last_eq_concat {buf init : List Byte} {b : Byte} (hl : buf.length = init.length + 1)
    (ht : buf.take init.length = init) : buf.set init.length b = init ++ [b] := by
  rw [List.set_eq_take_append_cons_drop, if_pos (by omega), ht, List.drop_eq_nil_of_le (by omega)]

/-- One more operation after a program that has run. -/
theorem perform_concat {s t u : State} {is : List Instr} {i : Instr} {out : List (Option Byte × List Event)}
    (h : s.perform is = some (t, out)) (hi : exec i t = .next u) :
    s.perform (is ++ [i]) = some (u, out ++ [(u.reply, u.events)]) := by
  rw [perform_append h, perform_cons hi rfl]
  rfl

/-- An open write transfer at its start takes 256 data writes and stores their bytes at the latch, where the image is
writable and holds the sector (R99, R102). -/
theorem perform_dataWrites_store {s : State} {m : Nat} {img : Image} {bs : List Byte} (hst : s.st = .xferWrite)
    (hpos : s.pos = 0) (hlen : s.len = 256) (hbuf : s.buf.length = 256) (hbs : bs.length = 256)
    (ha : s.activeSlot = .image m img) (hrw : img.readOnly = false)
    (hg : inGeometry img s.ltrk.toNat s.lside.toNat s.lsec.toNat = true)
    (hfits : sectorOffset img s.ltrk.toNat s.lside.toNat s.lsec.toNat + 256 ≤ img.size) :
    ∃ t out, s.perform (bs.map Instr.wrData) = some (t, out) ∧
      out.map (·.2) = List.replicate 255 [] ++ [[.irq]] ∧
      t = { s with
        dr := t.dr, buf := bs, pos := s.len, busy := false, drq := false, st := .idle, delay := 0,
        images := s.images.set m (some (img.withSector s.ltrk.toNat s.lside.toNat s.lsec.toNat bs)),
        reply := none, events := [.irq], hostResult := none } := by
  obtain ⟨init, b, rfl⟩ : ∃ init b, bs = init ++ [b] :=
    (List.eq_nil_or_concat' bs).resolve_left (by rintro rfl; cases hbs)
  have hinit : init.length = 255 := by simpa using hbs
  obtain ⟨w, out, hcollect, hev, _, hp, hq, htake, hw⟩ :=
    perform_dataWrites (init.map Instr.wrData) s init hst (by simp) (by simp [hpos, hlen, hinit])
  obtain ⟨d, p, q, r, e, h, rfl⟩ : ∃ d p q r e h,
      w = { s with dr := d, pos := p, buf := q, reply := r, events := e, hostResult := h } := ⟨_, _, _, _, _, _, hw⟩
  replace hp : p.toNat = init.length := by simpa [hpos] using hp
  replace htake : q.take init.length = init := by simpa [hp, hpos, hlen, hbuf] using htake
  have hfull : q.set p.toNat b = init ++ [b] := hp ▸ set_last_eq_concat (by rw [hq, hbuf, hinit]) htake
  have hlast : p + 1 = s.len := State.pos_next_eq (s := { s with pos := p }) (by simp [hp, hlen, hinit])
  have hstore := exec_lastDataWrite_stores
    (s := { s with dr := d, pos := p, buf := q, reply := r, events := e, hostResult := h })
    (dataByteOf_wrData b) hst hlast ha hrw hg hfits
  rw [hfull] at hstore
  refine ⟨_, _, by rw [List.map_append]; exact perform_concat hcollect hstore, ?_, ?_⟩
  · rw [List.map_append, hev, List.length_map, hinit]
    rfl
  · rw [← hlast, ← hfull]
    rfl

/-- The write transfer that `COMMAND` has opened: the state after an accepted Write Sector (R121). -/
def State.writeOpened (s : State) (x : BitVec 5) : State :=
  { s.clearOutputs.prologue (0b101#3 ++ x) with
    buf := zeroBuffer, ltrk := s.tr, lside := s.side, lsec := s.secIndex }.openXfer .write 256

/-- The read transfer that `COMMAND` has opened: the state after a Read Sector that found the bytes `r` (R120). -/
def State.readOpened (s : State) (y : BitVec 5) (r : List Byte) : State :=
  { s.clearOutputs.prologue (0b100#3 ++ y) with buf := r }.openXfer .read 256

@[simp] theorem State.readOpened_pos (s : State) (y : BitVec 5) (r : List Byte) : (s.readOpened y r).pos = 0 := rfl
@[simp] theorem State.readOpened_len (s : State) (y : BitVec 5) (r : List Byte) : (s.readOpened y r).len = 256 := rfl
@[simp] theorem State.readOpened_buf (s : State) (y : BitVec 5) (r : List Byte) : (s.readOpened y r).buf = r := rfl

/-- Write Sector on a writable image. -/
theorem exec_wrSec_opens {s : State} {m : Nat} {img : Image} (x : BitVec 5) (ha : s.activeSlot = .image m img)
    (hrw : img.readOnly = false) : exec (.wrSec x) s = .next (s.writeOpened x) :=
  State.wrSecBody_opens (s := s.clearOutputs.prologue (0b101#3 ++ x)) ha hrw

/-- Read Sector on a sector that the image serves. -/
theorem exec_rdSec_opens {s : State} {m : Nat} {img : Image} {r : List Byte} (y : BitVec 5)
    (ha : s.activeSlot = .image m img)
    (hr : readSector img s.tr.toNat s.side.toNat s.secIndex.toNat = .ok r) :
    exec (.rdSec y) s = .next (s.readOpened y r) :=
  State.rdSecBody_found (s := s.clearOutputs.prologue (0b100#3 ++ y)) ha hr

/-- Write Sector and 256 data writes, on a writable image that holds the sector: the 256 bytes are stored there, with
the events of one transfer (R121, R99, R102). -/
theorem perform_writeTransfer {s : State} {m : Nat} {img : Image} {bs : List Byte} (x : BitVec 5)
    (ha : s.activeSlot = .image m img) (hrw : img.readOnly = false) (hbs : bs.length = 256)
    (hg : inGeometry img s.tr.toNat s.side.toNat s.secIndex.toNat = true)
    (hfits : sectorOffset img s.tr.toNat s.side.toNat s.secIndex.toNat + 256 ≤ img.size) :
    ∃ t out, s.perform (.wrSec x :: bs.map Instr.wrData) = some (t, out) ∧ out.map (·.2) = transferEvents 255 ∧
      t = { s.writeOpened x with
        dr := t.dr, buf := bs, pos := 256, busy := false, drq := false, st := .idle,
        images := s.images.set m (some (img.withSector s.tr.toNat s.side.toNat s.secIndex.toNat bs)),
        events := [.irq] } := by
  obtain ⟨t, out, hperform, hev, ht⟩ := perform_dataWrites_store (s := s.writeOpened x) rfl rfl rfl zeroBuffer_length
    hbs ha hrw hg hfits
  exact ⟨t, _, perform_cons (exec_wrSec_opens x ha hrw) hperform, congrArg (List.cons [Event.drqEv]) hev, ht⟩

/-- Read Sector and 256 data reads, on a sector that the image serves: its bytes in order, with the events of one
transfer (R120, R93). -/
theorem perform_readTransfer {s : State} {m : Nat} {img : Image} {r ds : List Byte} (y : BitVec 5)
    (ha : s.activeSlot = .image m img)
    (hr : readSector img s.tr.toNat s.side.toNat s.secIndex.toNat = .ok r) (hds : ds.length = 256) :
    ∃ t out, s.perform (.rdSec y :: ds.map Instr.rdData) = some (t, out) ∧ out.map (·.1) = none :: r.map some ∧
      out.map (·.2) = transferEvents 255 ∧ t.st = .idle := by
  have hlen : r.length = 256 := readSector_length hr
  obtain ⟨t, out, hperform, hbytes, hev, _, _, ht⟩ := perform_dataReads (ds.map Instr.rdData) (s.readOpened y r) rfl
    (by simp [readsData]) (by simp [hds]) (by simpa using hds) (Nat.le_of_eq hlen.symm)
  rw [List.length_map, hds] at hbytes hev
  refine ⟨t, _, perform_cons (exec_rdSec_opens y ha hr) hperform, congrArg (List.cons none) (hbytes.trans ?_),
    congrArg (List.cons [Event.drqEv]) hev, by rw [ht]⟩
  simp [← hlen]

/-- A sector just written is the one read back (R58). -/
theorem readSector_withSector {img : Image} {t s sec : Nat} {data : List Byte} (hd : data.length = 256)
    (hg : inGeometry img t s sec = true) (hfits : sectorOffset img t s sec + 256 ≤ img.size) :
    readSector (img.withSector t s sec data) t s sec = .ok data :=
  (readSector_ok ..).2 ⟨hg, hfits, by
    have := Memory.readRange_writeRange_same img.store (sectorOffset img t s sec) data
    rw [hd] at this
    exact this.symm⟩

/-- Settles O38: one write transfer, then one read transfer from the same registers on the image it left. -/
theorem writtenSectorReadsBack : Obligations.WrittenSectorReadsBack := by
  intro s x y bs ds m img ha hrw hbs hds hg hfits
  obtain ⟨hslot, himg⟩ := (State.activeSlot_image s).1 ha
  obtain ⟨u, wrote, hwrite, hwev, hu⟩ := perform_writeTransfer x ha hrw hbs hg hfits
  have hua : u.activeSlot = .image m (img.withSector s.tr.toNat s.side.toNat s.secIndex.toNat bs) := by
    refine (State.activeSlot_image u).2 ⟨by rw [hu]; exact hslot, ?_⟩
    refine (State.imageAt_congr (s := s.setImage m (some _)) (by rw [hu]; rfl) m).trans ?_
    rw [State.imageAt_setImage s m m _ (State.imageAt_lt s himg), if_pos rfl]
  obtain ⟨t, got, hread, hbytes, hrev, hidle⟩ := perform_readTransfer y hua
    (by rw [hu]; exact readSector_withSector hbs hg hfits) hds
  obtain ⟨hwirq, hwdrq⟩ := counts_of_transferEvents hwev
  obtain ⟨hrirq, hrdrq⟩ := counts_of_transferEvents hrev
  have hwlen : wrote.length = 257 := by simpa using congrArg List.length hwev
  refine ⟨t, wrote ++ got, ?_, ?_, hidle, ?_, ?_⟩
  · rw [← List.cons_append, perform_append hwrite, hread]
    rfl
  · rw [List.drop_append, List.drop_of_length_le (by omega), hwlen, List.nil_append, List.map_drop, hbytes]
    rfl
  · rw [irqCount_append, hwirq, hrirq]
  · rw [drqCount_append, hwdrq, hrdrq]

end Sys2Proof.Machine
end

section
/-! The statements on the encoding: the decoder and the encoder are inverse to each other, which words decode and to
what, and what the lines of the assembly language stand for. -/

namespace Sys2Proof

/-! ### Decoding what the encoder made (R70, R73, R80) -/

/-- The command bytes of the encoder, row by row of rule R73. -/
theorem decodeCommand_append :
    (∀ x : BitVec 4, decodeCommand (0x0#4 ++ x) = .restore x) ∧
    (∀ x : BitVec 4, decodeCommand (0x1#4 ++ x) = .seek x) ∧
    (∀ x : BitVec 5, decodeCommand (0b001#3 ++ x) = .step x) ∧
    (∀ x : BitVec 5, decodeCommand (0b010#3 ++ x) = .stepIn x) ∧
    (∀ x : BitVec 5, decodeCommand (0b011#3 ++ x) = .stepOut x) ∧
    (∀ x : BitVec 5, decodeCommand (0b100#3 ++ x) = .rdSec x) ∧
    (∀ x : BitVec 5, decodeCommand (0b101#3 ++ x) = .wrSec x) ∧
    (∀ x : BitVec 4, decodeCommand (0xC#4 ++ x) = .rdAddr x) ∧
    (∀ (i : Bool) (x : BitVec 3), decodeCommand (0xD#4 ++ (BitVec.ofBool i ++ x)) = .forceInt i x) ∧
    (∀ x : BitVec 5, decodeCommand (0b111#3 ++ x) = .other x) := by
  decide

/-- A bus transaction always decodes to the row of its select (R71). -/
theorem decode_bus_append (k : BitVec 4) (d : Byte) : decode (.bus (k ++ d)) = .ok (busRow k d) :=
  congrArg Except.ok (decodeBus_append k d)

/-- A stimulus decodes exactly when its conditions hold, and then to the operation of its row. -/
theorem stimulusIf_eq_ok {kind : BitVec 4} {ok : Bool} {i j : Instr} :
    stimulusIf kind ok i = .ok j ↔ ok = true ∧ i = j := by
  cases ok <;> simp [stimulusIf]

theorem stimulusRow_stimRd (r : Select) : stimulusRow 0x0 (0#1 ++ r) 0 = .ok (.stimRd r) := by
  obtain ⟨htop, hsel⟩ := select_fields r
  exact stimulusIf_eq_ok.2 ⟨by rw [htop]; rfl, by rw [hsel]⟩

theorem stimulusRow_stimWr (r : Select) (v : Byte) :
    stimulusRow 0x1 (0#1 ++ r) (0#24 ++ v) = .ok (.stimWr r v) := by
  obtain ⟨htop, hsel⟩ := select_fields r
  obtain ⟨hzero, hbyte⟩ := byte_fields v
  exact stimulusIf_eq_ok.2 ⟨by rw [htop, hzero]; rfl, by rw [hsel, hbyte]⟩

theorem stimulusRow_attach (d : Drive) (m : BitVec 32) : stimulusRow 0x3 (0#2 ++ d) m = .ok (.attach d m) := by
  obtain ⟨htop, hdrive⟩ := drive_fields d
  exact stimulusIf_eq_ok.2 ⟨by rw [htop]; rfl, by rw [hdrive]⟩

theorem stimulusRow_detach (d : Drive) : stimulusRow 0x4 (0#2 ++ d) 0 = .ok (.detach d) := by
  obtain ⟨htop, hdrive⟩ := drive_fields d
  exact stimulusIf_eq_ok.2 ⟨by rw [htop]; rfl, by rw [hdrive]⟩

/-- A stimulus word decodes by its three fields (R80). -/
theorem decode_stimulus_append (k s : BitVec 4) (a : BitVec 32) :
    decode (.stimulus (k ++ s ++ a)) = stimulusRow k s a :=
  decodeStimulus_append k s a

/-- Decoding undoes encoding: a command byte by its row, a bus transaction by its select, a stimulus by its fields. -/
theorem decode_encode (i : Instr) : decode (encode i) = .ok i := by
  obtain ⟨hrestore, hseek, hstep, hstepIn, hstepOut, hrdSec, hwrSec, hrdAddr, hforceInt, hother⟩ :=
    decodeCommand_append
  cases i with
  | restore x => exact congrArg Except.ok (hrestore x)
  | seek x => exact congrArg Except.ok (hseek x)
  | step x => exact congrArg Except.ok (hstep x)
  | stepIn x => exact congrArg Except.ok (hstepIn x)
  | stepOut x => exact congrArg Except.ok (hstepOut x)
  | rdSec x => exact congrArg Except.ok (hrdSec x)
  | wrSec x => exact congrArg Except.ok (hwrSec x)
  | rdAddr x => exact congrArg Except.ok (hrdAddr x)
  | forceInt i x => exact congrArg Except.ok (hforceInt i x)
  | other x => exact congrArg Except.ok (hother x)
  | stimRd r => exact (decode_stimulus_append _ _ _).trans (stimulusRow_stimRd r)
  | stimWr r v => exact (decode_stimulus_append _ _ _).trans (stimulusRow_stimWr r v)
  | tick n => exact decode_stimulus_append _ _ _
  | attach d m => exact (decode_stimulus_append _ _ _).trans (stimulusRow_attach d m)
  | detach d => exact (decode_stimulus_append _ _ _).trans (stimulusRow_detach d)
  | reset => rfl
  | _ d => exact decode_bus_append _ d

/-! ### Encoding what the decoder read (R70, R73, R80) -/

/-- The operation read from a stimulus keeps its three fields: what it does not carry is 0 by the conditions of its
row. -/
theorem encode_of_stimulusRow {k s : BitVec 4} {a : BitVec 32} {i : Instr} (h : stimulusRow k s a = .ok i) :
    encode i = .stimulus (k ++ s ++ a) := by
  unfold stimulusRow at h
  split at h <;>
    simp only [stimulusIf_eq_ok, Bool.and_eq_true, Bool.not_eq_true', beq_iff_eq, reduceCtorEq] at h
  next hk =>
    obtain rfl : k = 0x0 := BitVec.eq_of_toNat_eq hk
    obtain ⟨⟨htop, rfl⟩, rfl⟩ := h
    simp only [encode, select_of_fields s htop]
    rfl
  next hk =>
    obtain rfl : k = 0x1 := BitVec.eq_of_toNat_eq hk
    obtain ⟨⟨htop, hzero⟩, rfl⟩ := h
    simp only [encode, select_of_fields s htop, byte_of_fields a hzero]
    rfl
  next hk =>
    obtain rfl : k = 0x2 := BitVec.eq_of_toNat_eq hk
    obtain ⟨rfl, rfl⟩ := h
    rfl
  next hk =>
    obtain rfl : k = 0x3 := BitVec.eq_of_toNat_eq hk
    obtain ⟨htop, rfl⟩ := h
    simp only [encode, drive_of_fields s htop]
    rfl
  next hk =>
    obtain rfl : k = 0x4 := BitVec.eq_of_toNat_eq hk
    obtain ⟨⟨htop, rfl⟩, rfl⟩ := h
    simp only [encode, drive_of_fields s htop]
    rfl
  next hk =>
    obtain rfl : k = 0x5 := BitVec.eq_of_toNat_eq hk
    obtain ⟨⟨rfl, rfl⟩, rfl⟩ := h
    rfl

/-- Encoding undoes decoding. -/
theorem encode_of_decode {r : Request} {i : Instr} (h : decode r = .ok i) : encode i = r := by
  cases r with
  | command v =>
    cases h
    exact encode_decodeCommand v
  | bus w =>
    cases h
    exact (encode_busRow _ _).trans (congrArg Request.bus (bus_split w))
  | stimulus w => exact (encode_of_stimulusRow h).trans (congrArg Request.stimulus (stimulus_split w))

/-! ### Which words are stimuli (R80) -/

/-- A row of the table decodes exactly when its conditions hold. -/
theorem stimulusIf_isOk_iff {kind : BitVec 4} {ok : Bool} {i : Instr} :
    (∃ j, stimulusIf kind ok i = .ok j) ↔ ok = true := by
  simp [stimulusIf_eq_ok]

/-- The decoder's test of a register select is the table's. -/
theorem selectTest_eq (s : BitVec 4) : (!s.getLsbD 3) = decide (s.toNat < 8) := by
  revert s; decide

/-- The decoder's test of a drive number is the table's. -/
theorem driveTest_eq (s : BitVec 4) : (s.extractLsb' 2 2 == 0) = decide (s.toNat < 4) := by
  revert s; decide

/-- The decoder's test of a byte argument is the table's. -/
theorem byteTest_eq (a : BitVec 32) : (a.extractLsb' 8 24 == 0) = decide (a.toNat < 256) := by
  have ha := a.isLt
  rw [Bool.eq_iff_iff, beq_iff_eq, decide_eq_true_iff, ← BitVec.toNat_inj, BitVec.extractLsb'_toNat,
    Nat.shiftRight_eq_div_pow]
  change a.toNat / 2 ^ 8 % 2 ^ 24 = 0 ↔ _
  omega

/-- The words that decode are those that meet the conditions of rule R80's table. -/
theorem decode_stimulus_isOk_iff (w : BitVec 40) :
    (∃ i, decode (.stimulus w) = .ok i) ↔ stimulusWellFormed w = true := by
  change (∃ i, stimulusRow (stimKind w) (stimSel w) (stimArg w) = .ok i) ↔ _
  unfold stimulusRow stimulusWellFormed
  rw [selectTest_eq, driveTest_eq, byteTest_eq]
  generalize (stimKind w).toNat = n
  match n with
  | 0 | 1 | 2 | 3 | 4 | 5 => exact stimulusIf_isOk_iff
  | n + 6 => exact iff_of_false (fun ⟨_, h⟩ => nomatch h) Bool.false_ne_true

end Sys2Proof

namespace Sys2Proof.Machine

/-- Settles O1: `decode_encode`. -/
theorem decodeOfEncodeIsIdentity : Obligations.DecodeOfEncodeIsIdentity := decode_encode

/-- Settles O2: `encode_of_decode`. -/
theorem encodeOfDecodeIsIdentity : Obligations.EncodeOfDecodeIsIdentity := fun _ _ h => encode_of_decode h

/-- A delivered request that does not decode is refused. -/
theorem step_of_reject {s : State} {r : Request} {rest : List Input} {why : Reject}
    (hs : s.inputs = .request r :: rest) (hr : decode r = .error why) : step s = .refused (.notAStimulus why) := by
  simp only [step, hs, hr]

/-- Settles O3: the six rows are encodings; a word that is no stimulus does not decode, and `step` refuses it. -/
theorem stimulusWordsDecodeExactlyWhenWellFormed : Obligations.StimulusWordsDecodeExactlyWhenWellFormed := by
  refine ⟨fun r v n m d => ⟨decode_encode (.stimRd r), decode_encode (.stimWr r v), decode_encode (.tick n),
    decode_encode (.attach d m), decode_encode (.detach d), decode_encode .reset⟩, decode_stimulus_isOk_iff,
    fun s w rest hs hw => ?_⟩
  cases hd : decode (.stimulus w) with
  | ok i => exact absurd ((decode_stimulus_isOk_iff w).1 ⟨i, hd⟩) (by simp [hw])
  | error why => exact ⟨why, step_of_reject hs hd⟩

/-- Settles O4: the map is a finite table, compared on each of its 256 bytes. -/
theorem commandByteClassMap : Obligations.CommandByteClassMap := by
  unfold Obligations.CommandByteClassMap
  decide

/-! ### Register selects (R70, R71) -/

/-- The stimulus `RD` of a select is the bus read of that select. -/
theorem exec_stimRd_eq_bus (r : Select) (d : Byte) (s : State) :
    exec (.stimRd r) s = exec (busRow (0#1 ++ r) d) s := by
  rcases select_cases r with rfl | rfl | rfl | rfl | rfl | rfl | rfl | rfl <;> rfl

/-- The stimulus `WR` of a select is the bus write of that select. -/
theorem exec_stimWr_eq_bus (r : Select) (v : Byte) (s : State) :
    exec (.stimWr r v) s = exec (busRow (1#1 ++ r) v) s := by
  rcases select_cases r with rfl | rfl | rfl | rfl | rfl | rfl | rfl | rfl <;> rfl

/-- Settles O5: `busRow` is the map of the selects, and the stimuli go through it. -/
theorem registerSelectMap : Obligations.RegisterSelectMap := by
  refine ⟨fun d => ?_, fun r d v s i j hi hj => ?_⟩
  · and_intros <;> exact decode_bus_append _ d
  · rw [decode_bus_append] at hi hj
    cases hi
    cases hj
    exact ⟨exec_stimRd_eq_bus r d s, exec_stimWr_eq_bus r v s⟩

/-- Settles O6: nine closed words, each read by evaluation. -/
theorem writtenOutWordsDecode : Obligations.WrittenOutWordsDecode := by
  unfold Obligations.WrittenOutWordsDecode
  decide

/-! ### Ignored command bits (R75) -/

section

variable {s : State} {v w : Byte}

/-- The same state with another byte in `CMDR`. -/
def State.withCmdr (s : State) (w : Byte) : State := { s with cmdr := w }

@[simp] theorem State.withCmdr_tr : (s.withCmdr w).tr = s.tr := rfl
@[simp] theorem State.withCmdr_side : (s.withCmdr w).side = s.side := rfl
@[simp] theorem State.withCmdr_secIndex : (s.withCmdr w).secIndex = s.secIndex := rfl
@[simp] theorem State.withCmdr_activeSlot : (s.withCmdr w).activeSlot = s.activeSlot := rfl

/-- An outcome with its next state, if it has one, changed. -/
def mapNext (f : State → State) : Host.Outcome State Fault Refusal → Host.Outcome State Fault Refusal
  | .next s => .next (f s)
  | .fault r => .fault r
  | .refused r => .refused r

/-- Read Sector passes `CMDR` on and does not look at it. -/
theorem State.rdSecBody_withCmdr : (s.withCmdr w).rdSecBody = mapNext (·.withCmdr w) s.rdSecBody := by
  simp only [State.rdSecBody, State.withCmdr_activeSlot, State.withCmdr_tr, State.withCmdr_side,
    State.withCmdr_secIndex]
  cases s.activeSlot with
  | empty => rfl
  | closed m => rfl
  | image m img =>
    dsimp only
    cases readSector img s.tr.toNat s.side.toNat s.secIndex.toNat <;> rfl

/-- Write Sector passes `CMDR` on and does not look at it. -/
theorem State.wrSecBody_withCmdr : (s.withCmdr w).wrSecBody = mapNext (·.withCmdr w) s.wrSecBody := by
  simp only [State.wrSecBody, State.withCmdr_activeSlot]
  cases s.activeSlot with
  | empty => rfl
  | closed m => rfl
  | image m img =>
    dsimp only
    cases img.readOnly <;> rfl

/-- Force Interrupt passes `CMDR` on and does not look at it. -/
theorem State.forceIntBody_withCmdr (i : Bool) :
    (s.withCmdr w).forceIntBody i = (s.forceIntBody i).withCmdr w := by
  cases i <;> rfl

/-- Of its byte a command write uses the class, for Force Interrupt bit 3, and stores the byte in `CMDR`. -/
theorem State.writeCommand_congr (hc : commandClass v = commandClass w)
    (hi : commandClass v = .forceInt → v.getLsbD 3 = w.getLsbD 3) :
    s.writeCommand w = mapNext (·.withCmdr w) (s.writeCommand v) := by
  have hp : s.prologue w = (s.prologue v).withCmdr w := rfl
  simp only [State.writeCommand, ← hc, hp]
  cases hv : commandClass v
  case rdSec => exact State.rdSecBody_withCmdr
  case wrSec => exact State.wrSecBody_withCmdr
  case forceInt =>
    simp only [immediateBit, hi hv, State.forceIntBody_withCmdr]
    rfl
  all_goals rfl

end

/-- Settles O8: `State.writeCommand_congr`, for the write that completes. -/
theorem ignoredCommandBits : Obligations.IgnoredCommandBits := by
  intro v w s t hc hi ht
  have hv : s.clearOutputs.writeCommand v = .next t := ht
  exact (State.writeCommand_congr hc hi).trans (congrArg (mapNext (·.withCmdr w)) hv)

/-! ### The status byte and the signals of the buffer in a sound sequencer (R76, R21) -/

section

variable {s : State}

/-- The flags a sequencer state admits leave ten status values: six in `Idle`, four where `BUSY` is set. -/
theorem State.SequencerSound.status_mem (h : s.SequencerSound) :
    s.status ∈ ([0x00, 0x01, 0x03, 0x10, 0x40, 0x80, 0x81, 0x83, 0x90, 0xC0] : List Byte) := by
  have running (hst : s.st ≠ .idle) (hb : s.busy = true) : s.status ∈ ([0x01, 0x03, 0x81, 0x83] : List Byte) := by
    obtain ⟨hr, hw⟩ := h.noFailure hst
    rw [State.status_of rfl hw hr rfl hb]
    generalize s.notReady = n, s.drq = d
    decide +revert
  have among : [0x01, 0x03, 0x81, 0x83] ⊆
      ([0x00, 0x01, 0x03, 0x10, 0x40, 0x80, 0x81, 0x83, 0x90, 0xC0] : List Byte) := by decide
  obtain ⟨hidle, hbusy, hxfer, _, _, _, _, _, hboth⟩ := h
  cases hst : s.st with
  | idle =>
    obtain ⟨hb, hd, _⟩ := hidle hst
    rw [State.status_of rfl rfl rfl hd hb]
    generalize s.notReady = n, s.rnf = r, s.wp = w at hboth ⊢
    decide +revert
  | busy => exact among (running (by simp [hst]) (hbusy hst).1)
  | xferRead => exact among (running (by simp [hst]) (hxfer (.inl hst)).1)
  | xferWrite => exact among (running (by simp [hst]) (hxfer (.inr hst)).1)

/-- `buf_valid` is that a transfer is open (R21). -/
theorem State.bufValid_iff : s.bufValid = true ↔ s.st = .xferRead ∨ s.st = .xferWrite := by
  simp [State.bufValid]

/-- In a sound sequencer `buf_valid` is `DRQ` (R21, R27). -/
theorem State.SequencerSound.bufValid_eq_drq (h : s.SequencerSound) : s.bufValid = s.drq := by
  obtain ⟨hidle, hbusy, hxfer, _⟩ := h
  cases hst : s.st with
  | idle => simp [State.bufValid, hst, hidle hst]
  | busy => simp [State.bufValid, hst, hbusy hst]
  | xferRead => simp [State.bufValid, hst, hxfer (.inl hst)]
  | xferWrite => simp [State.bufValid, hst, hxfer (.inr hst)]

end

/-- Settles O17: `status_mem` and `bufValid_eq_drq`; in a transfer `pos` is below `len`, so a byte remains. -/
theorem statusTakesTenValues : Obligations.StatusTakesTenValues := by
  intro s hs
  refine ⟨hs.status_mem, State.bufValid_iff, hs.bufValid_eq_drq, fun hst => by simp [State.bufDir, hst],
    fun hst => by simp [State.bufDir, hst], fun hv => ?_, fun hv => by simp [State.bufRemaining, hv]⟩
  obtain ⟨_, _, hxfer, _⟩ := hs
  obtain ⟨_, _, _, _, hlt⟩ := hxfer (State.bufValid_iff.1 hv)
  have hrem : s.bufRemaining = s.len.toNat - s.pos.toNat := by simp [State.bufRemaining, hv]
  exact ⟨hrem, by omega⟩

/-! ### Read Address (R79, R122) -/

/-- Settles O35: the buffer is the identifier, then what it held from byte 6 on. -/
theorem readAddressIdentifier : Obligations.ReadAddressIdentifier := by
  intro x s hbuf
  refine ⟨s.addressId ++ s.buf.drop 6, rfl, ?_, rfl, fun k hk _ => ?_⟩
  · simp [hbuf, State.addressId]
  · rw [List.getElem?_append_right hk, List.getElem?_drop]
    exact congrArg (s.buf[·]?) (Nat.add_sub_cancel' hk)

/-! ### The assembly language (R81, R82) -/

/-- The fields of a control byte. -/
theorem controlByte_fields (side : Side) (drive : Drive) :
    (0#3 ++ side ++ 0#2 ++ drive : Byte).toNat % 4 = drive.toNat ∧
    (0#3 ++ side ++ 0#2 ++ drive : Byte).extractLsb' 4 1 = side ∧
    (0#3 ++ side ++ 0#2 ++ drive : Byte) &&& 0xEC = 0 := by
  decide +revert

/-- Settles O60: the expansions hold by definition, each operand in range being the value of its byte;
`controlByte_fields` reads the control byte. -/
theorem assemblyLinesExpand : Obligations.AssemblyLinesExpand := by
  refine ⟨fun p => ⟨rfl, rfl, rfl, rfl, rfl, rfl, rfl, rfl, rfl, rfl⟩, fun p t n k b ht hn hb => ?_,
    fun p d s hd hs => ?_⟩
  · exact ⟨BitVec.ofNat 8 t, BitVec.ofNat 8 n, BitVec.ofNat 8 b, Nat.mod_eq_of_lt ht, Nat.mod_eq_of_lt hn,
      Nat.mod_eq_of_lt hb, rfl, rfl, rfl, rfl, rfl⟩
  · obtain ⟨hdrive, hside, hzero⟩ := controlByte_fields (BitVec.ofNat 1 s ^^^ p.sideInvert) (BitVec.ofNat 2 d)
    exact ⟨asmControlByte p d s, rfl, hdrive.trans (Nat.mod_eq_of_lt hd), hside, hzero⟩

end Sys2Proof.Machine
end

section
/-! The statements on the registers: what a read or a write of each does, the commit of a write transfer, and what each
kind of access leaves unchanged. -/

namespace Sys2Proof.Machine

section

variable {s t : State} {i : Instr} {v : Byte} {sh : Shape}

/-! ### The registers without side effect and the unmapped selects (R91 to R95, R97 to R101) -/

/-- The stimulus `WR` as one word, its select above and its byte below (R80). -/
theorem decode_stimulus_write (r : Select) (v : Byte) :
    decode (.stimulus (0x1#4 ++ (0#1 ++ r) ++ 0#24 ++ v)) = .ok (.stimWr r v) :=
  (congrArg (fun w => decode (.stimulus w)) BitVec.append_assoc).trans (decode_encode (.stimWr r v))

/-- The selects from 5 on are the unmapped ones (R71). -/
theorem unmappedSelect_cases {r : Select} (h : 5 ≤ r.toNat) : r = 5 ∨ r = 6 ∨ r = 7 := by
  revert r; decide

/-! ### Reads and writes of `DATA` (R93, R99, R102) -/

/-- The next byte of a read transfer is `buf[pos]`, where the buffer has one. -/
theorem State.nextByte_of_getElem? (h : s.buf[s.pos.toNat]? = some v) : s.nextByte = v := by
  simp [State.nextByte, h]

/-- The last data write of a write transfer with the selected slot empty. -/
theorem exec_lastDataWrite_empty (hi : dataByteOf i = some v) (hst : s.st = .xferWrite) (hp : s.pos + 1 = s.len)
    (ha : s.activeSlot = .empty) :
    exec i s = .next ((s.clearOutputs.collectByte v).raise .recordNotFound).complete := by
  rw [exec_dataWrite_commit s hi hst hp]
  exact State.commit_empty ha

/-- The last data write of a write transfer that the image in the selected slot does not take. -/
theorem exec_lastDataWrite_fails {m : Nat} {img : Image} {e : ImageError} (hi : dataByteOf i = some v)
    (hst : s.st = .xferWrite) (hp : s.pos + 1 = s.len) (ha : s.activeSlot = .image m img)
    (hw : writeSector img s.ltrk.toNat s.lside.toNat s.lsec.toNat (s.buf.set s.pos.toNat v) = .error e) :
    exec i s = .next ((s.clearOutputs.collectByte v).raise e.failure).complete := by
  rw [exec_dataWrite_commit s hi hst hp]
  exact State.commit_fails ha hw

/-- A writable image refuses a sector outside its geometry or its store, and either error records `RNF` (R45,
R102). -/
theorem writeSector_fails_of_outside {img : Image} {tr sd sec : Nat} (data : List Byte) (hrw : img.readOnly = false)
    (hout : ¬(tr < img.tracks ∧ sd < img.sides ∧ sec < 16 ∧ sectorOffset img tr sd sec + 256 ≤ img.size)) :
    ∃ e, writeSector img tr sd sec data = .error e ∧ e.failure = .recordNotFound := by
  cases hg : inGeometry img tr sd sec with
  | false => exact ⟨_, (writeSector_error ..).2 (.inr (.inl ⟨hrw, hg, rfl⟩)), rfl⟩
  | true =>
    obtain ⟨htr, hsd, hsec⟩ := (inGeometry_iff ..).1 hg
    have hsize : img.size < sectorOffset img tr sd sec + 256 :=
      Nat.lt_of_not_le fun hle => hout ⟨htr, hsd, hsec, hle⟩
    exact ⟨_, (writeSector_error ..).2 (.inr (.inr ⟨hrw, hg, hsize, rfl⟩)), rfl⟩

/-- A store holds the bytes of a sector just written to it. -/
theorem Image.read_withSector (img : Image) {tr sd sec k : Nat} {data : List Byte} (hk : k < data.length) :
    (img.withSector tr sd sec data).store.read (sectorOffset img tr sd sec + k) = data[k] := by
  have hin : sectorOffset img tr sd sec ≤ sectorOffset img tr sd sec + k ∧
      sectorOffset img tr sd sec + k < sectorOffset img tr sd sec + data.length := by omega
  refine (Memory.read_writeRange ..).trans ?_
  simp [hin]

/-- A byte of the store of an open image, inside its length. -/
theorem State.storeByte_of_imageAt {m a : Nat} {img : Image} (hm : s.imageAt m = some img) (ha : a < img.size) :
    s.storeByte m a = some (img.store.read a) := by
  simp [State.storeByte, hm, ha]

/-- With a sector put back, its image reads as the sector's bytes there. -/
theorem State.storeByte_of_withSector {m tr sd sec k : Nat} {img : Image} {data : List Byte}
    (hm : s.imageAt m = some img) (ht : t.images = s.images.set m (some (img.withSector tr sd sec data)))
    (hfits : sectorOffset img tr sd sec + data.length ≤ img.size) (hk : k < data.length) :
    t.storeByte m (sectorOffset img tr sd sec + k) = data[k]? := by
  have himage : t.imageAt m = some (img.withSector tr sd sec data) :=
    (State.imageAt_congr (s := s.setImage m (some _)) ht m).trans
      ((State.imageAt_setImage s m m _ (State.imageAt_lt s hm)).trans (if_pos rfl))
  have hin : sectorOffset img tr sd sec + k < (img.withSector tr sd sec data).size :=
    Nat.lt_of_lt_of_le (Nat.add_lt_add_left hk _) hfits
  rw [State.storeByte_of_imageAt himage hin, Image.read_withSector img hk, List.getElem?_eq_getElem hk]

/-! ### A command write (R74, R96) -/

/-- The command a byte decodes to writes that byte. -/
theorem shapeOf_decodeCommand (v : Byte) : shapeOf (decodeCommand v) = .command v :=
  (commandByteOf_iff _ v).1 (by simp only [commandByteOf, encode_decodeCommand])

/-- Operations of one shape do the same. -/
theorem exec_eq_of_shapeOf_eq {i j : Instr} (h : shapeOf i = shapeOf j) (s : State) : exec i s = exec j s := by
  rw [exec_eq_runShape, exec_eq_runShape, h]

/-- A command write completes where the selected slot is live (R183). -/
theorem State.writeCommand_live (hl : s.ActiveSlotLive) (v : Byte) : ∃ t, s.writeCommand v = .next t := by
  have hread : ∃ t, (s.prologue v).rdSecBody = .next t := by
    by_cases hr : (s.prologue v).readSucceeds
    · obtain ⟨m, img, r, ha, hr⟩ := hr
      exact ⟨_, State.rdSecBody_found ha hr⟩
    · exact ⟨_, State.rdSecBody_fails hl hr⟩
  have hwrite : ∃ t, (s.prologue v).wrSecBody = .next t := by
    by_cases hw : (s.prologue v).writeOpens
    · obtain ⟨m, img, ha, hrw⟩ := hw
      exact ⟨_, State.wrSecBody_opens ha hrw⟩
    · obtain ⟨f, hf⟩ := State.wrSecBody_fails (s := s.prologue v) hl hw
      exact ⟨_, hf⟩
  unfold State.writeCommand
  cases commandClass v with
  | rdSec => exact hread
  | wrSec => exact hwrite
  | _ => exact ⟨_, rfl⟩

/-- A command emits at most one event, and its flags say which: `DRQ_EV` where it set `DRQ`, `IRQ` where it recorded a
failure. -/
theorem CommandCase.events_of_flags (h : CommandCase s t v) :
    t.events.length ≤ 1 ∧ (t.drq = true → t.events = [.drqEv]) ∧ (t.rnf = true → t.events = [.irq]) ∧
      (t.wp = true → t.events = [.irq]) := by
  cases h with
  | forceInt _ _ events drq rnf wp =>
    rw [events, drq, rnf, wp]
    cases v.getLsbD 3 <;> simp
  | _ => simp [*]

/-! ### What each kind of access leaves unchanged -/

/-- The track is moved by four classes only (R110 to R114). -/
theorem writeCommand_tr (ht : s.clearOutputs.writeCommand v = .next t) (hrestore : commandClass v ≠ .restore)
    (hseek : commandClass v ≠ .seek) (hstepIn : commandClass v ≠ .stepIn) (hstepOut : commandClass v ≠ .stepOut) :
    t.tr = s.tr := by
  rcases State.writeCommand_cases s.clearOutputs v with ⟨c, e⟩ | ⟨c, e⟩ | ⟨c, e⟩ | ⟨c, e⟩ | ⟨c, e⟩ | ⟨c, e⟩ |
    ⟨c, e⟩ | ⟨c, e⟩ | ⟨c, e⟩ | ⟨c, e⟩ <;> rw [e] at ht
  · exact absurd c hrestore
  · exact absurd c hseek
  · cases ht; rfl
  · exact absurd c hstepIn
  · exact absurd c hstepOut
  · rcases State.rdSecBody_next ht with ⟨m, img, r, _, _, rfl⟩ | ⟨_, rfl⟩ <;> rfl
  · rcases State.wrSecBody_next ht with ⟨_, rfl⟩ | ⟨_, f, rfl⟩ <;> simp
  · cases ht; rfl
  · cases ht; cases v.getLsbD 3 <;> rfl
  · cases ht; rfl

/-- The latch is written only where a Write Sector opens its transfer (R22, R121). -/
theorem writeCommand_latch (ht : s.clearOutputs.writeCommand v = .next t)
    (hopens : ¬(commandClass v = .wrSec ∧ s.writeOpens)) :
    t.ltrk = s.ltrk ∧ t.lside = s.lside ∧ t.lsec = s.lsec := by
  rcases State.writeCommand_cases s.clearOutputs v with ⟨c, e⟩ | ⟨c, e⟩ | ⟨c, e⟩ | ⟨c, e⟩ | ⟨c, e⟩ | ⟨c, e⟩ |
    ⟨c, e⟩ | ⟨c, e⟩ | ⟨c, e⟩ | ⟨c, e⟩ <;> rw [e] at ht
  case inr.inr.inr.inr.inr.inl =>
    rcases State.rdSecBody_next ht with ⟨m, img, r, _, _, rfl⟩ | ⟨_, rfl⟩ <;> exact ⟨rfl, rfl, rfl⟩
  case inr.inr.inr.inr.inr.inr.inl =>
    rcases State.wrSecBody_next ht with ⟨h, rfl⟩ | ⟨_, f, rfl⟩
    · exact absurd ⟨c, (State.writeOpens_congr rfl rfl rfl).1 h⟩ hopens
    · simp
  case inr.inr.inr.inr.inr.inr.inr.inr.inl =>
    cases ht
    cases v.getLsbD 3 <;> exact ⟨rfl, rfl, rfl⟩
  all_goals (cases ht; exact ⟨rfl, rfl, rfl⟩)

/-- A command that does not leave `DRQ` set leaves the buffer alone. -/
theorem CommandCase.buf_of_drq (h : CommandCase s t v) (hd : t.drq = false) : t.buf = s.buf := by
  cases h with
  | readOpens _ _ _ _ drq | writeOpens _ _ _ _ drq | address _ _ _ drq => cases drq.symm.trans hd
  | _ => assumption

/-- A read moves at most what the data read of a read transfer moves. -/
theorem ExecCase.read_eq (h : ExecCase s t sh) (hsh : sh = .dataRead ∨ ∃ r, sh = .read r) :
    t = { s with
      dr := t.dr, pos := t.pos, busy := t.busy, drq := t.drq, st := t.st, delay := t.delay,
      reply := t.reply, events := t.events, hostResult := t.hostResult } := by
  cases h with
  | read | readPlain | readDeliver | readLast => subst t; rfl
  | _ => simp at hsh

/-- A read that is not a data read of a read transfer moves the outputs only. -/
theorem ExecCase.read_eq_of_not_delivering (h : ExecCase s t sh) (hsh : sh = .dataRead ∨ ∃ r, sh = .read r)
    (hn : ¬(sh = .dataRead ∧ s.st = .xferRead)) :
    t = { s with reply := t.reply, events := t.events, hostResult := t.hostResult } := by
  cases h with
  | read | readPlain => subst t; rfl
  | readDeliver st | readLast st => exact absurd ⟨rfl, st⟩ hn
  | _ => simp at hsh

/-- A read that does not end its transfer moves `DR`, `pos` and the outputs only. -/
theorem ExecCase.read_eq_of_not_last (h : ExecCase s t sh) (hsh : sh = .dataRead ∨ ∃ r, sh = .read r)
    (hn : s.pos + 1 ≠ s.len) :
    t = { s with
      dr := t.dr, pos := t.pos, reply := t.reply, events := t.events, hostResult := t.hostResult } := by
  cases h with
  | read | readPlain | readDeliver => subst t; rfl
  | readLast _ pos => exact absurd pos hn
  | _ => simp at hsh

/-- A data write moves at most `DR`, the buffer, and what the commit of a write transfer moves. -/
theorem ExecCase.dataWrite_eq (h : ExecCase s t (.dataWrite v)) :
    t = { s with
      dr := v, buf := t.buf, pos := t.pos, busy := t.busy, drq := t.drq, rnf := t.rnf, wp := t.wp, st := t.st,
      delay := t.delay, images := t.images, reply := t.reply, events := t.events, hostResult := t.hostResult } := by
  cases h with
  | writePlain _ _ eq | writeCollect _ _ _ eq => subst eq; rfl
  | writeCommit _ _ _ next =>
    rcases State.commit_next next with ⟨m, img, img', _, _, rfl⟩ | ⟨f, rfl⟩
    · rfl
    · cases f <;> rfl

/-- A data write that is not the last of a write transfer moves `DR`, the buffer, `pos` and the outputs only. -/
theorem ExecCase.dataWrite_eq_of_not_last (h : ExecCase s t (.dataWrite v))
    (hn : ¬(s.st = .xferWrite ∧ s.pos + 1 = s.len)) :
    t = { s with
      dr := v, buf := t.buf, pos := t.pos, reply := t.reply, events := t.events, hostResult := t.hostResult } := by
  cases h with
  | writePlain _ _ eq | writeCollect _ _ _ eq => subst eq; rfl
  | writeCommit _ st pos => exact absurd ⟨st, pos⟩ hn

/-- Outside a write transfer a data write leaves the buffer and its position alone. -/
theorem ExecCase.dataWrite_buf (h : ExecCase s t (.dataWrite v)) (hst : s.st ≠ .xferWrite) :
    t.buf = s.buf ∧ t.pos = s.pos := by
  cases h with
  | writePlain _ _ eq => subst eq; exact ⟨rfl, rfl⟩
  | writeCollect _ st | writeCommit _ st => exact absurd st hst

/-- The stimulus `RD` is the data read for select 3 and a plain read for every other one. -/
theorem shapeOf_stimRd (r : Select) : shapeOf (.stimRd r) = .dataRead ∨ ∃ r', shapeOf (.stimRd r) = .read r' := by
  simp only [shapeOf]
  split
  · exact .inl rfl
  · exact .inr ⟨r, rfl⟩

end

/-! ### The statements -/

/-- Settles O19: the reads answer their register; `writeCommand_frame` has `SR`, and Restore computes. -/
theorem trackSectorControlReads : Obligations.TrackSectorControlReads := by
  refine ⟨decode_encode (.stimRd 1), decode_encode (.stimRd 2), decode_encode (.stimRd 4), fun d s => ?_,
    fun v s t ht => ?_, fun x s => ⟨_, rfl, rfl⟩⟩
  · exact ⟨decode_bus_append _ d, rfl, rfl, decode_bus_append _ d, rfl, rfl, decode_bus_append _ d, rfl, rfl⟩
  · obtain ⟨_, _, hsr, _⟩ := writeCommand_frame ht
    exact hsr

/-- Settles O21: every form of the read answers 0xFF, every form of the write clears the outputs only. -/
theorem unmappedSelects : Obligations.UnmappedSelects := by
  refine ⟨decode_encode (.stimRd 5), decode_encode (.stimRd 6), decode_encode (.stimRd 7),
    fun v => ⟨decode_stimulus_write 5 v, decode_stimulus_write 6 v, decode_stimulus_write 7 v⟩, fun d v r s hr => ?_⟩
  rcases unmappedSelect_cases hr with rfl | rfl | rfl <;> exact ⟨rfl, rfl, rfl, rfl, rfl, rfl, rfl, rfl⟩

/-- Settles O22: the writes store their byte; drive, side and `NOTREADY` are computed from the new `CR`. -/
theorem trackSectorControlWrites : Obligations.TrackSectorControlWrites := by
  refine ⟨fun v => ⟨decode_stimulus_write 1 v, decode_stimulus_write 2 v, decode_stimulus_write 4 v,
    decode_bus_append _ v, decode_bus_append _ v, decode_bus_append _ v⟩, fun v s => ?_⟩
  exact ⟨rfl, rfl, rfl, rfl, _, rfl, rfl, rfl, rfl, rfl, State.notReady_eq_true _⟩

/-- Settles O20: `exec_dataRead_plain`, `exec_dataRead_deliver` and `exec_dataRead_last`. -/
theorem dataRead : Obligations.DataRead := by
  refine ⟨decode_encode (.stimRd 3), fun i s hi => ⟨exec_dataRead_plain s hi, fun v hst hv => ?_⟩⟩
  obtain rfl := State.nextByte_of_getElem? hv
  exact ⟨exec_dataRead_deliver s hi hst, exec_dataRead_last s hi hst⟩

/-- Settles O23: `exec_dataWrite_plain` and `exec_dataWrite_collect`. -/
theorem dataWriteCollects : Obligations.DataWriteCollects := fun _ _ s hi =>
  ⟨exec_dataWrite_plain s hi, exec_dataWrite_collect s hi⟩

/-- Settles O24: `exec_lastDataWrite_empty`, `exec_lastDataWrite_fails` for the two kinds of failure, and
`exec_lastDataWrite_stores`. -/
theorem lastDataWriteCommits : Obligations.LastDataWriteCommits := by
  intro i v s hi hst hp
  refine ⟨fun hslot => exec_lastDataWrite_empty hi hst hp ((State.activeSlot_empty s).2 hslot),
    fun m img hslot himg => ?_⟩
  have ha : s.activeSlot = .image m img := (State.activeSlot_image s).2 ⟨hslot, himg⟩
  refine ⟨fun hro => ?_, fun hrw hout => ?_, fun hrw htr hsd hsec hfits => ?_⟩
  · exact exec_lastDataWrite_fails hi hst hp ha ((writeSector_error ..).2 (.inl ⟨hro, rfl⟩))
  · obtain ⟨e, hw, he⟩ := writeSector_fails_of_outside (s.buf.set s.pos.toNat v) hrw hout
    rw [exec_lastDataWrite_fails hi hst hp ha hw, he]
    rfl
  · exact exec_lastDataWrite_stores hi hst hp ha hrw ((inGeometry_iff ..).2 ⟨htr, hsd, hsec⟩) hfits

/-- Settles O25: the 256 bytes by `State.storeByte_of_withSector`, every other byte by
`ExecCase.stores_of_storeByte_ne`. -/
theorem commitStoresTheLatchedSector : Obligations.CommitStoresTheLatchedSector := by
  intro i v s t m img hi hst hp hbuf ha hrw hg hfits ht
  refine ⟨fun k hk => ?_, fun m' a hout => ?_⟩
  · obtain ⟨_, himg⟩ := (State.activeSlot_image s).1 ha
    have hlen : (s.buf.set s.pos.toNat v).length = 256 := List.length_set.trans hbuf
    cases (exec_lastDataWrite_stores hi hst hp ha hrw hg hfits).symm.trans ht
    exact State.storeByte_of_withSector himg rfl (by rw [hlen]; exact hfits) (by rw [hlen]; exact hk)
  · by_contra hne
    obtain ⟨_, img', _, _, _, ha', _, _, hlow, hhigh⟩ := (exec_case ht).stores_of_storeByte_ne hne
    cases ha.symm.trans ha'
    exact hout ⟨rfl, hlow, hbuf ▸ hhigh⟩

/-- Settles O9: the three forms have one shape; the write completes by `State.writeCommand_live`. -/
theorem commandWriteIsItsCommand : Obligations.CommandWriteIsItsCommand := by
  intro v s
  refine ⟨exec_eq_of_shapeOf_eq (i := .wrCmd v) (shapeOf_decodeCommand v).symm s,
    exec_eq_of_shapeOf_eq (i := .stimWr 0 v) (shapeOf_decodeCommand v).symm s, fun hl => ?_⟩
  obtain ⟨t, ht⟩ := State.writeCommand_live (s := s.clearOutputs) hl v
  obtain ⟨_, _, _, _, _, _, _, hcmdr, hreply, _⟩ := writeCommand_frame ht
  exact ⟨t, ht, hcmdr, hreply, (writeCommand_case ht).events_of_flags⟩

/-- Settles O57: `writeCommand_frame`, `writeCommand_tr`, `writeCommand_latch` and `CommandCase.buf_of_drq`. -/
theorem frameOfCommands : Obligations.FrameOfCommands := by
  intro i v s t hi ht
  rw [exec_eq_runShape, (commandByteOf_iff i v).1 hi] at ht
  obtain ⟨hslots, himages, hsr, hdr, hcr, hparams, hinputs, _⟩ := writeCommand_frame ht
  exact ⟨hsr, hdr, hcr, hslots, himages, hparams, hinputs, State.storeByte_congr himages, writeCommand_tr ht,
    writeCommand_latch ht, (writeCommand_case ht).buf_of_drq⟩

/-- Settles O56: every bus read has the shape of a read, and the `ExecCase.read_eq` lemmas say what each kind moves. -/
theorem frameOfBusReads : Obligations.FrameOfBusReads := by
  intro i s t hi ht
  have hsh : shapeOf i = .dataRead ∨ ∃ r, shapeOf i = .read r := by
    rcases hi with ⟨d, rfl⟩ | ⟨d, rfl⟩ | ⟨d, rfl⟩ | ⟨d, rfl⟩ | ⟨d, rfl⟩ | ⟨d, rfl⟩ | ⟨d, rfl⟩ | ⟨d, rfl⟩ | ⟨r, rfl⟩
    case inr.inr.inr.inl => exact .inl rfl
    case inr.inr.inr.inr.inr.inr.inr.inr => exact shapeOf_stimRd r
    all_goals exact .inr ⟨_, rfl⟩
  have hc := exec_case ht
  rw [hc.read_eq hsh]
  refine ⟨rfl, rfl, rfl, rfl, rfl, rfl, rfl, rfl, rfl, rfl, rfl, rfl, rfl, rfl, rfl, fun _ _ => rfl, fun hn => ?_,
    fun hn => ?_⟩
  · rw [(shapeOf_iff i).1] at hn
    rw [hc.read_eq_of_not_delivering hsh hn]
    exact ⟨rfl, rfl, rfl, rfl, rfl, rfl⟩
  · rw [hc.read_eq_of_not_last hsh hn]
    exact ⟨rfl, rfl, rfl, rfl⟩

/-- Settles O58: the plain writes compute their next state, and the `ExecCase.dataWrite_eq` lemmas say what a data write
moves. -/
theorem frameOfRegisterWrites : Obligations.FrameOfRegisterWrites := by
  intro i v s t ht
  have plain {u : State} (hu : exec i s = .next u) (himages : u.images = s.images) :
      t = u ∧ ∀ m a, t.storeByte m a = s.storeByte m a := by
    cases hu.symm.trans ht
    exact ⟨rfl, State.storeByte_congr himages⟩
  refine ⟨?_, ?_, ?_, fun hi => ?_⟩
  · rintro (rfl | rfl) <;> exact plain rfl rfl
  · rintro (rfl | rfl) <;> exact plain rfl rfl
  · rintro (rfl | rfl) <;> exact plain rfl rfl
  · have hc := exec_case ht
    rw [(dataByteOf_iff i v).1 hi] at hc
    have hbuf := hc.dataWrite_buf
    rw [hc.dataWrite_eq]
    refine ⟨rfl, rfl, rfl, rfl, rfl, rfl, rfl, rfl, rfl, rfl, rfl, rfl, fun hn => ?_, hbuf⟩
    rw [hc.dataWrite_eq_of_not_last hn]
    exact ⟨rfl, rfl, rfl, rfl, rfl, rfl, rfl, fun _ _ => rfl⟩

end Sys2Proof.Machine
end

section
/-! The statements on the type I commands: what each does at decode, and how its delay runs out. -/

namespace Sys2Proof.Machine

section

variable {s u : State}

/-! ### The seek delay (R78, R111) -/

/-- The seek distance is the absolute difference of `DR` and `TR` (R78). -/
theorem State.seekDistance_eq_natAbs (s : State) :
    s.seekDistance = ((s.dr.toNat : Int) - (s.tr.toNat : Int)).natAbs := by
  unfold State.seekDistance
  split <;> omega

/-- Two tracks are at most 255 apart (R78). -/
theorem State.seekDistance_le (s : State) : s.seekDistance ≤ 255 := by
  have htr := s.tr.isLt
  have hdr := s.dr.isLt
  rw [State.seekDistance_eq_natAbs]
  omega

/-- Admissible parameters keep the delay of any seek between 1 and the largest tick count (R5, R111). -/
theorem Params.seekDelay_bounds {p : Params} (hp : p.Valid) {d : Nat} (hd : d ≤ 255) :
    1 ≤ p.delaySeekBase.toNat + d * p.delaySeekPerTrack.toNat ∧
      p.delaySeekBase.toNat + d * p.delaySeekPerTrack.toNat < 2 ^ 32 := by
  obtain ⟨_, hbase, _, hfar, _⟩ := hp
  have hmul : d * p.delaySeekPerTrack.toNat ≤ 255 * p.delaySeekPerTrack.toNat := Nat.mul_le_mul_right _ hd
  omega

/-! ### The clamps (R113, R114) -/

/-- A track below another does not wrap when counted up. -/
theorem Byte.toNat_add_one_of_lt {a b : Byte} (h : a.toNat < b.toNat) : (a + 1).toNat = a.toNat + 1 := by
  bv_omega

/-- A track above 0 does not wrap when counted down. -/
theorem Byte.toNat_sub_one_of_pos {a : Byte} (h : 0 < a.toNat) : (a - 1).toNat = a.toNat - 1 :=
  BitVec.toNat_sub_of_le (y := 1) h

/-! ### The status byte of a type I command (R115) -/

/-- Where no failure is recorded and no transfer is open, the status byte shows `NOTREADY` and `BUSY` only. -/
theorem State.status_of_quiet (hn : u.notReady = s.notReady) (hw : u.wp = false) (hr : u.rnf = false)
    (hd : u.drq = false) :
    u.status = if u.busy then (if s.notReady then 0x81 else 0x01) else (if s.notReady then 0x80 else 0x00) := by
  rw [State.status_of hn hw hr hd rfl]
  generalize s.notReady = n, u.busy = b
  decide +revert

end

/-! ### The statements -/

/-- Settles O26: the prologue, then the body of the command, field by field. -/
theorem restoreAndStep : Obligations.RestoreAndStep := fun _ => ⟨fun _ => rfl, fun _ => rfl⟩

/-- Settles O27: `seekDistance_eq_natAbs` makes the loaded delay the stated one, `seekDelay_bounds` bounds it. -/
theorem seekMovesToDataRegister : Obligations.SeekMovesToDataRegister := by
  intro x s n hn
  rw [← State.seekDistance_eq_natAbs] at hn
  subst hn
  refine ⟨rfl, fun hp => ?_⟩
  obtain ⟨hpos, hlt⟩ := Params.seekDelay_bounds hp s.seekDistance_le
  exact ⟨hpos, (BitVec.toNat_ofNat ..).trans (Nat.mod_eq_of_lt hlt)⟩

/-- Settles O28: the tracks are the two conditionals of R113 and R114, and neither counts past its bound. -/
theorem stepInStepOutClamp : Obligations.StepInStepOutClamp := by
  intro x s
  refine ⟨if s.tr.toNat < s.params.maxTrack.toNat then s.tr + 1 else s.tr,
    if 0 < s.tr.toNat then s.tr - 1 else s.tr, rfl, fun hbelow => ?_, fun hmax => ?_, rfl, fun hpos => ?_,
    fun hzero => ?_⟩
  · rw [if_pos hbelow]
    exact Byte.toNat_add_one_of_lt hbelow
  · exact if_neg (Nat.not_lt.2 hmax)
  · rw [if_pos hpos]
    exact Byte.toNat_sub_one_of_pos hpos
  · rw [hzero]
    rfl

/-- Settles O29: `State.typeOne_eq` gives the state in `Busy` with its delay; a tick either counts
(`exec_tick_counts`) or completes it (`exec_tick_expires`). -/
theorem typeOneRunsToOneIrq : Obligations.TypeOneRunsToOneIrq := by
  intro v s hone hp
  obtain ⟨track, d, hexec, hdelay, _⟩ := State.typeOne_eq s.clearOutputs v hone
  refine ⟨_, hexec, rfl, hdelay hp, State.status_of_quiet rfl rfl rfl rfl, fun n hshort => ?_, fun n hlong => ?_⟩
  · have hnot : ¬d.toNat ≤ n.toNat := Nat.not_le.2 hshort
    exact ⟨_, exec_tick_counts _ (not_and_of_not_right _ hnot), rfl, rfl, Ticks.toNat_saturate d n, rfl⟩
  · exact ⟨_, exec_tick_expires _ rfl hlong, rfl, rfl, rfl, rfl, State.status_of_quiet rfl rfl rfl rfl⟩

end Sys2Proof.Machine
end

section
/-! The statements on the type II commands: every outcome of Read Sector and Write Sector, and one whole read transfer
and one whole write transfer, byte by byte. -/

namespace Sys2Proof.Machine

section

variable {s t : State} {m : Nat} {img : Image}

/-! ### The failing outcomes (R120, R121) -/

/-- An empty slot is live. -/
theorem State.activeSlotLive_of_empty (ha : s.activeSlot = .empty) : s.ActiveSlotLive := by
  intro m hm
  cases ha.symm.trans hm

/-- A slot that holds an open image is live. -/
theorem State.activeSlotLive_of_image (ha : s.activeSlot = .image m img) : s.ActiveSlotLive := by
  intro m' hm
  cases ha.symm.trans hm

/-- Nothing is read from an empty slot. -/
theorem State.not_readSucceeds_of_empty (ha : s.activeSlot = .empty) : ¬s.readSucceeds := by
  rintro ⟨_, _, _, ha', _⟩
  cases ha.symm.trans ha'

/-- A read succeeds exactly where the addressed sector lies in the geometry and in the store (R44). -/
theorem State.readSucceeds_iff (ha : s.activeSlot = .image m img) :
    s.readSucceeds ↔ s.tr.toNat < img.tracks ∧ s.side.toNat < img.sides ∧ s.secIndex.toNat < 16 ∧
      sectorOffset img s.tr.toNat s.side.toNat s.secIndex.toNat + 256 ≤ img.size := by
  constructor
  · rintro ⟨_, _, r, ha', hr⟩
    cases ha.symm.trans ha'
    obtain ⟨hg, hfits, _⟩ := (readSector_ok ..).1 hr
    obtain ⟨htr, hside, hsec⟩ := (inGeometry_iff ..).1 hg
    exact ⟨htr, hside, hsec, hfits⟩
  · rintro ⟨htr, hside, hsec, hfits⟩
    exact ⟨m, img, _, ha, (readSector_ok ..).2 ⟨(inGeometry_iff ..).2 ⟨htr, hside, hsec⟩, hfits, rfl⟩⟩

/-- Read Sector that does not find its sector, the selected slot being live. -/
theorem exec_rdSec_fails (x : BitVec 5) (hl : s.ActiveSlotLive) (hf : ¬s.readSucceeds) :
    exec (.rdSec x) s = .next ((s.clearOutputs.prologue (0b100#3 ++ x)).failWith .recordNotFound) :=
  State.rdSecBody_fails (s := s.clearOutputs.prologue (0b100#3 ++ x)) hl hf

/-- Write Sector with the selected slot empty. -/
theorem exec_wrSec_empty (x : BitVec 5) (ha : s.activeSlot = .empty) :
    exec (.wrSec x) s = .next ((s.clearOutputs.prologue (0b101#3 ++ x)).failWith .recordNotFound) := by
  have ha' : (s.clearOutputs.prologue (0b101#3 ++ x)).activeSlot = .empty := ha
  simp only [exec, execWrSec, State.wrSecBody, ha']

/-- Write Sector on a read-only image. -/
theorem exec_wrSec_readOnly (x : BitVec 5) (ha : s.activeSlot = .image m img) (hro : img.readOnly = true) :
    exec (.wrSec x) s = .next ((s.clearOutputs.prologue (0b101#3 ++ x)).failWith .writeProtect) := by
  have ha' : (s.clearOutputs.prologue (0b101#3 ++ x)).activeSlot = .image m img := ha
  simp only [exec, execWrSec, State.wrSecBody, ha', hro, if_true]

/-! ### The bytes of a sector and the image put back -/

/-- The bytes read from a range inside the store of an open image are the bytes of that store. -/
theorem State.getElem?_readRange {off n k : Nat} (hm : s.imageAt m = some img) (hfits : off + n ≤ img.size)
    (hk : k < n) : (img.store.readRange off n)[k]? = s.storeByte m (off + k) := by
  rw [State.storeByte_of_imageAt hm (by omega), List.getElem?_eq_getElem (by simpa using hk),
    Memory.getElem_readRange]

/-- What is put back at the index of an open image stands there. -/
theorem State.imageAt_of_images_set_same {v : Option Image} (hm : s.imageAt m = some img)
    (ht : t.images = s.images.set m v) : t.imageAt m = v := by
  rw [State.imageAt_congr (s := s.setImage m v) ht, State.imageAt_setImage s m m v (State.imageAt_lt s hm), if_pos rfl]

end

/-! ### The statements -/

/-- Settles O32: `exec_rdSec_fails` with an empty slot and where `State.readSucceeds_iff` fails, and
`exec_rdSec_opens` with the bytes of the store by `State.getElem?_readRange`. -/
theorem readSectorOutcomes : Obligations.ReadSectorOutcomes := by
  intro x s
  refine ⟨fun hslot => ?_, fun m img hslot himg => ?_⟩
  · have ha := (State.activeSlot_empty s).2 hslot
    exact exec_rdSec_fails x (State.activeSlotLive_of_empty ha) (State.not_readSucceeds_of_empty ha)
  · have ha := (State.activeSlot_image s).2 ⟨hslot, himg⟩
    refine ⟨fun hout => ?_, fun htr hside hsec hfits => ?_⟩
    · exact exec_rdSec_fails x (State.activeSlotLive_of_image ha) fun hr => hout ((State.readSucceeds_iff ha).1 hr)
    · have hg := (inGeometry_iff ..).2 ⟨htr, hside, hsec⟩
      exact ⟨_, Memory.length_readRange .., fun k hk => State.getElem?_readRange himg hfits hk,
        exec_rdSec_opens x ha ((readSector_ok ..).2 ⟨hg, hfits, rfl⟩)⟩

/-- Settles O33: `exec_wrSec_empty`, `exec_wrSec_readOnly` and `exec_wrSec_opens`. -/
theorem writeSectorOutcomes : Obligations.WriteSectorOutcomes := by
  intro x s
  refine ⟨fun hslot => exec_wrSec_empty x ((State.activeSlot_empty s).2 hslot), fun m img hslot himg => ?_⟩
  have ha := (State.activeSlot_image s).2 ⟨hslot, himg⟩
  exact ⟨exec_wrSec_readOnly x ha, exec_wrSec_opens x ha⟩

/-- Settles O36: `perform_dataReads` from position 0; the last byte of the transfer is the one `DR` holds. -/
theorem readTransferDeliversBuffer : Obligations.ReadTransferDeliversBuffer := by
  intro s ds hst hpos hne hlen hbuf
  obtain ⟨t, out, hperform, hbytes, hev, hdr, hp, ht⟩ := perform_dataReads (ds.map Instr.rdData) s hst
    (by simp [readsData]) (by simpa using hne) (by simp [hpos, hlen]) (hlen ▸ hbuf)
  rw [List.length_map] at hbytes hev
  have hlast : s.buf.take ds.length = s.buf.take (ds.length - 1) ++ [t.dr] := by
    have htake := List.take_add_one (l := s.buf) (i := ds.length - 1)
    rwa [Nat.sub_add_cancel hne, hlen, hdr, ← hlen] at htake
  refine ⟨t, out, hperform, ?_, hev, by rw [ht], by rw [ht], by rw [ht], hp, hlast, by rw [ht], by rw [ht], by rw [ht]⟩
  simpa [hpos] using hbytes

/-- Settles O37: `perform_writeTransfer` gives the last state; its bytes in the sector by
`State.storeByte_of_withSector`, every other byte by `State.storeByte_ne_of_writeSector`. -/
theorem writeTransferCommitsItsBytes : Obligations.WriteTransferCommitsItsBytes := by
  intro s x bs m img ha hrw hbs hg hfits
  obtain ⟨_, himg⟩ := (State.activeSlot_image s).1 ha
  obtain ⟨t, out, hperform, hev, ht⟩ := perform_writeTransfer x ha hrw hbs hg hfits
  have himages : t.images = s.images.set m
      (some (img.withSector s.tr.toNat s.side.toNat s.secIndex.toNat bs)) := by rw [ht]
  refine ⟨t, out, hperform, hev, by rw [ht], by rw [ht], by rw [ht], by rw [ht]; rfl, by rw [ht]; rfl,
    fun k hk => ?_, fun m' a hout => ?_, _, State.imageAt_of_images_set_same himg himages, rfl⟩
  · exact State.storeByte_of_withSector himg himages (hbs ▸ hfits) (hbs ▸ hk)
  · by_contra hne
    obtain ⟨hm, hlow, hhigh⟩ := State.storeByte_ne_of_writeSector himg
      ((writeSector_ok ..).2 ⟨hrw, hg, hfits, rfl⟩) himages hne
    exact hout ⟨hm, hlow, hbs ▸ hhigh⟩

end Sys2Proof.Machine
end

section
/-! The statement on the type IV command Force Interrupt and the other command patterns. -/

namespace Sys2Proof.Machine

/-- Force Interrupt is the silent abort, and its one event is the `IRQ` of the immediate bit (R135). -/
theorem State.forceIntBody_eq (s : State) (immediate : Bool) :
    s.forceIntBody immediate =
      { s.abort with events := s.events ++ if immediate then [.irq] else [] } := by
  cases immediate with
  | false => simp [State.forceIntBody, State.abort]
  | true => rfl

/-- Settles O39: Force Interrupt by `State.forceIntBody_eq`; the other patterns are `State.abort` after the prologue
by definition. -/
theorem forceInterruptAndOtherPatterns : Obligations.ForceInterruptAndOtherPatterns := fun _ =>
  ⟨fun immediate _ => congrArg Host.Outcome.next (State.forceIntBody_eq _ immediate), fun _ => rfl⟩

end Sys2Proof.Machine
end

section
/-! The statements on the tick and the host port: how a tick counts, what `ATTACH` and `DETACH` do to a slot, how a
transfer goes on after a `DETACH`, and what these operations and `RESET` leave unchanged. -/

namespace Sys2Proof.Machine

section

variable {s : State}

/-! ### The tick (R140) -/

/-- A subtraction that does not saturate is the one of the counter. -/
theorem Ticks.saturate_of_le {d n : Ticks} (h : n.toNat ≤ d.toNat) : BitVec.ofNat 32 (d.toNat - n.toNat) = d - n := by
  apply BitVec.eq_of_toNat_eq
  rw [Ticks.toNat_saturate, BitVec.toNat_sub_of_le h]

/-- Counting saturated twice is counting the sum. -/
theorem Ticks.saturate_saturate {d a b : Ticks} (h : a.toNat + b.toNat < 2 ^ 32) :
    BitVec.ofNat 32 ((BitVec.ofNat 32 (d.toNat - a.toNat)).toNat - b.toNat) =
      BitVec.ofNat 32 (d.toNat - (a + b).toNat) := by
  rw [Ticks.toNat_saturate, BitVec.toNat_add_of_lt h, Nat.sub_sub]

/-! ### The slots (R141, R142) -/

/-- Storing a slot moves `NOTREADY` only where the slot is the selected one (R16). -/
theorem State.notReady_setSlot (s : State) (d : Drive) (v : Option Nat) :
    ({ s with slots := s.slots.set d v } : State).notReady = if d = s.drive then v.isNone else s.notReady := by
  change ((s.slots.set d v).get s.drive).isNone = _
  split
  · next h => rw [h, Slots.get_set_same]
  · next h => rw [Slots.get_set_other _ _ _ _ (Ne.symm h), State.notReady]

/-- `ATTACH` of an open image stores its index in the slot. -/
theorem exec_attach_open {m : BitVec 32} {img : Image} (d : Drive) (hm : s.imageAt m.toNat = some img) :
    exec (.attach d m) s = .next { s.clearOutputs with slots := s.slots.set d (some m.toNat) } := by
  simp [exec, execAttach, State.attachBody, hm]

/-- The drive number of an `ATTACH` or a `DETACH` as part of the word's head (R80). -/
theorem driveHead_eq (d : Drive) :
    0b001100#6 ++ d = 0x3#4 ++ (0#2 ++ d) ∧ 0b010000#6 ++ d = 0x4#4 ++ (0#2 ++ d) := by
  revert d; decide

/-! ### The rest of a write transfer whose slot is empty (R102, R142) -/

/-- With the selected slot empty, the data writes that fill a write transfer end it with `RNF` and one `IRQ`, and the
images stay as they are. -/
theorem perform_dataWrites_empty {is : List Instr} {bs : List Byte} (ha : s.activeSlot = .empty)
    (hst : s.st = .xferWrite) (hbs : is.map dataByteOf = bs.map some) (hne : 0 < is.length)
    (hl : s.pos.toNat + is.length = s.len.toNat) :
    ∃ t out, s.perform is = some (t, out) ∧ out.map (·.2) = List.replicate (is.length - 1) [] ++ [[Event.irq]] ∧
      t.pos = s.len ∧
      t = { s with
        dr := t.dr, buf := t.buf, pos := t.pos, busy := false, drq := false, rnf := true, st := .idle, delay := 0,
        reply := none, events := [.irq], hostResult := none } := by
  obtain ⟨init, i, rfl⟩ : ∃ init i, is = init ++ [i] :=
    (List.eq_nil_or_concat' is).resolve_left (List.ne_nil_of_length_pos hne)
  obtain ⟨front, last, rfl, hfront, hlast⟩ := List.map_eq_append_iff.1 (hbs.symm.trans List.map_append)
  obtain ⟨b, rfl, hb⟩ := List.map_eq_singleton_iff.1 hlast
  rw [List.length_append, List.length_singleton] at hl
  obtain ⟨w, out, hcollect, hev, _, hp, _, _, hw⟩ :=
    perform_dataWrites init s front hst hfront.symm (by omega)
  have hwa : w.activeSlot = .empty := by rw [hw]; exact ha
  have hwst : w.st = .xferWrite := by rw [hw]; exact hst
  have hwlen : w.len = s.len := by rw [hw]
  have hwp : w.pos + 1 = w.len := State.pos_next_eq (by rw [hp, hwlen]; omega)
  refine ⟨_, _, perform_concat hcollect (exec_lastDataWrite_empty hb.symm hwst hwp hwa), ?_,
    hwp.trans hwlen, ?_⟩
  · rw [List.map_append, hev, List.length_append, List.length_singleton, Nat.add_sub_cancel]
    rfl
  · rw [hw]
    rfl

end

/-! ### The statements -/

/-- Settles O30: `exec_tick_expires` in `Busy` with the delay used up, `exec_tick_counts` everywhere else. -/
theorem tickCountsDown : Obligations.TickCountsDown := by
  refine ⟨fun n => decode_encode (.tick n), fun n s => ⟨fun hst hle => exec_tick_expires s hst hle,
    fun _ hlt => ?_, fun hst => ?_, fun hst hzero => ?_⟩⟩
  · rw [exec_tick_counts s (not_and_of_not_right _ (Nat.not_le.2 hlt)), Ticks.saturate_of_le (Nat.le_of_lt hlt)]
    rfl
  · exact ⟨_, Ticks.toNat_saturate s.delay n, exec_tick_counts s (not_and_of_not_left _ hst)⟩
  · have hstays : BitVec.ofNat 32 (s.delay.toNat - n.toNat) = s.delay := by
      rw [hzero]
      exact congrArg _ (Nat.zero_sub _)
    rw [exec_tick_counts s (not_and_of_not_left _ hst), hstays]
    rfl

/-- Settles O31: the command ends at the first tick, at the second or at neither, and the tick of the sum does the
same. -/
theorem ticksAdd : Obligations.TicksAdd := by
  intro a b s hsum
  have hadd : (a + b).toNat = a.toNat + b.toNat := BitVec.toNat_add_of_lt hsum
  by_cases hfirst : s.st = .busy ∧ s.delay.toNat ≤ a.toNat
  · obtain ⟨hst, hle⟩ := hfirst
    refine ⟨_, _, exec_tick_expires s hst hle, exec_tick_counts _ (fun ⟨hidle, _⟩ => Seq.noConfusion hidle),
      (exec_tick_expires s hst (by omega)).trans ?_⟩
    have hzero : BitVec.ofNat 32 (s.clearOutputs.complete.delay.toNat - b.toNat) = 0 :=
      congrArg _ (Nat.zero_sub _)
    rw [hzero]
    rfl
  · have hcounts := exec_tick_counts s hfirst
    have hdelay := Ticks.toNat_saturate s.delay a
    by_cases hsecond : s.st = .busy ∧ s.delay.toNat ≤ (a + b).toNat
    · obtain ⟨hst, hle⟩ := hsecond
      exact ⟨_, _, hcounts, exec_tick_expires _ hst (by rw [hdelay]; omega), exec_tick_expires s hst hle⟩
    · refine ⟨_, _, hcounts, exec_tick_counts _ fun ⟨hst, hle⟩ => hsecond ⟨hst, ?_⟩,
        (exec_tick_counts s hsecond).trans ?_⟩
      · rw [hdelay] at hle
        omega
      · rw [← Ticks.saturate_saturate hsum]
        rfl

/-- Settles O40: `exec_attach_open` gives the next state, `Slots.get_set_other` and `State.notReady_setSlot` what is
seen of it. -/
theorem attachStoresReference : Obligations.AttachStoresReference := by
  refine ⟨fun d m => ?_, fun d m s img hm => ⟨_, exec_attach_open d hm, rfl, Slots.get_set_same .., fun e he =>
    Slots.get_set_other _ _ _ _ he, fun hd => ?_, fun hd => ?_⟩⟩
  · rw [(driveHead_eq d).1]
    exact decode_encode (.attach d m)
  · exact (State.notReady_setSlot s d _).trans (if_pos hd)
  · exact (State.notReady_setSlot s d _).trans (if_neg hd)

/-- Settles O41: the slot by the laws of `Slots.set`; after it a read transfer goes on by `perform_dataReads` and a
write transfer by `perform_dataWrites_empty`. -/
theorem detachEmptiesSlot : Obligations.DetachEmptiesSlot := by
  refine ⟨fun d => ?_, fun d s => ⟨s.clearOutputs.detachBody d, rfl, rfl, Slots.get_set_same ..,
    fun e he => Slots.get_set_other _ _ _ _ he, Slots.set_none s.slots d, fun hd => ?_, fun hd => ?_,
    fun is hst hreads hne hlen hbuf => ?_, fun is bs hd hst hbs hne hlen => ?_⟩⟩
  · rw [(driveHead_eq d).2]
    exact decode_encode (.detach d)
  · exact (State.notReady_setSlot s d none).trans (if_pos hd)
  · exact (State.notReady_setSlot s d none).trans (if_neg hd)
  · obtain ⟨u, out, hperform, hbytes, hev, _, hpos, hu⟩ :=
      perform_dataReads is (s.clearOutputs.detachBody d) hst hreads hne hlen hbuf
    refine ⟨u, out, hperform, hbytes, hev, ?_, ?_, ?_, hpos, ?_, ?_, ?_⟩ <;> rw [hu] <;> rfl
  · have hempty : (s.clearOutputs.detachBody d).activeSlot = .empty :=
      (State.activeSlot_empty _).2 (hd ▸ Slots.get_set_same s.slots d none)
    obtain ⟨u, out, hperform, hev, hpos, hu⟩ := perform_dataWrites_empty hempty hst hbs hne hlen
    refine ⟨u, out, hperform, hev, ?_, ?_, ?_, hpos, ?_, ?_, ?_⟩ <;> rw [hu] <;> rfl

/-- Settles O59: `exec_case` names the next state of each of the four operations. -/
theorem frameOfHostPort : Obligations.FrameOfHostPort := by
  intro i s t ht
  have hc := exec_case ht
  refine ⟨?_, ?_, ?_⟩
  · rintro ⟨n, rfl⟩
    cases hc with
    | tickExpires _ hst _ e =>
      subst e
      exact ⟨rfl, rfl, rfl, rfl, rfl, rfl, rfl, rfl, rfl, rfl, rfl, rfl, rfl, rfl, rfl, rfl, rfl,
        fun hn => absurd hst hn, State.storeByte_congr rfl⟩
    | tickCounts _ _ e =>
      subst e
      exact ⟨rfl, rfl, rfl, rfl, rfl, rfl, rfl, rfl, rfl, rfl, rfl, rfl, rfl, rfl, rfl, rfl, rfl,
        fun _ => ⟨rfl, rfl, rfl⟩, State.storeByte_congr rfl⟩
  · rintro (⟨d, m, rfl⟩ | ⟨d, rfl⟩)
    · cases hc with
      | attach _ _ e =>
        subst e
        exact ⟨rfl, State.storeByte_congr rfl⟩
    · cases hc with
      | detach _ e =>
        subst e
        exact ⟨rfl, State.storeByte_congr rfl⟩
  · rintro rfl
    cases hc with
    | reset e =>
      subst e
      exact ⟨rfl, rfl, rfl, rfl, rfl, rfl, rfl, rfl, rfl, State.storeByte_congr rfl⟩

end Sys2Proof.Machine
end

section
/-! The statements on failures and events: that no reachable step faults, which operation emits which event and how it
moves `st`, how many `IRQ` pulses a program raises, and how long the failure flags last. -/

namespace Sys2Proof.Machine

section

variable {s t : State} {i : Instr} {v : Byte} {sh : Shape}

/-! ### No fault where the selected slot is live (R158, R183) -/

/-- A data write completes where the selected slot is live. -/
theorem State.writeData_live (hl : s.ActiveSlotLive) (v : Byte) : ∃ t, s.writeData v = .next t := by
  rw [State.writeData_eq]
  split
  · split
    · exact State.commit_live (s := s.collectByte v) hl
    · exact ⟨_, rfl⟩
  · exact ⟨_, rfl⟩

/-- Every operation completes where the selected slot is live. -/
theorem exec_live (hl : s.ActiveSlotLive) (i : Instr) : ∃ t, exec i s = .next t := by
  rw [exec_eq_runShape]
  cases shapeOf i with
  | command v => exact State.writeCommand_live (s := s.clearOutputs) hl v
  | dataWrite v => exact State.writeData_live (s := s.clearOutputs) hl v
  | _ => exact ⟨_, rfl⟩

/-- An image operation of the host completes or is refused, in every state. -/
theorem execHost_ne_fault (op : HostOp) (s : State) (f : Fault) : execHost op s ≠ .fault f := by
  cases op with
  | openImage bytes want granted => nofun
  | flush m =>
    simp only [execHost, State.hostFlush]
    split <;> nofun
  | close m =>
    simp only [execHost, State.hostClose]
    split
    · nofun
    · split <;> nofun
  | readSector m tr sd sec =>
    simp only [execHost, State.hostReadSector]
    split
    · nofun
    · split <;> nofun
  | writeSector m tr sd sec data =>
    simp only [execHost, State.hostWriteSector]
    split
    · nofun
    · split <;> nofun

/-- A step faults only in an operation of the block whose selected slot is not live. -/
theorem step_ne_fault (hl : s.ActiveSlotLive) (f : Fault) : step s ≠ .fault f := by
  rcases hs : s.inputs with _ | ⟨⟨r⟩ | ⟨op⟩, rest⟩
  · rw [step_of_inputs_nil hs]
    nofun
  · rcases hd : decode r with why | i
    · simp only [step, hs, hd]
      nofun
    · rw [step_of_request hs hd]
      obtain ⟨t, ht⟩ := exec_live (s := s.withInputs rest) hl i
      rw [ht]
      nofun
  · rw [step_of_host hs]
    exact execHost_ne_fault op _ f

/-! ### The operations that complete the command in progress (R103, R166) -/

/-- Performed now, the operation ends the command in progress by `COMPLETE()`: a tick that uses up the delay in `Busy`, or
the last data access of a transfer. -/
def State.completedBy (s : State) (i : Instr) : Prop :=
  (∃ n, i = .tick n ∧ s.st = .busy ∧ s.delay.toNat ≤ n.toNat) ∨
  (readsData i ∧ s.st = .xferRead ∧ s.pos + 1 = s.len) ∨
  (∃ v, dataByteOf i = some v ∧ s.st = .xferWrite ∧ s.pos + 1 = s.len)

/-- There is a command in progress to complete. -/
theorem State.completedBy.st_ne_idle (h : s.completedBy i) : s.st ≠ .idle := by
  rcases h with ⟨_, _, hst, _⟩ | ⟨_, hst, _⟩ | ⟨_, _, hst, _⟩ <;> simp [hst]

theorem commandByteOf_tick (n : Ticks) : commandByteOf (.tick n) = none := commandByteOf_eq (.tick n)

theorem commandByteOf_of_readsData (h : readsData i) : commandByteOf i = none := by
  rw [commandByteOf_eq, (shapeOf_iff i).1.1 h]

theorem commandByteOf_of_dataByteOf (h : dataByteOf i = some v) : commandByteOf i = none := by
  rw [commandByteOf_eq, (dataByteOf_iff i v).1 h]

theorem commandByteOf_of_completedBy (h : s.completedBy i) : commandByteOf i = none := by
  rcases h with ⟨n, rfl, _⟩ | ⟨hi, _⟩ | ⟨v, hi, _⟩
  · exact commandByteOf_tick n
  · exact commandByteOf_of_readsData hi
  · exact commandByteOf_of_dataByteOf hi

/-- In `Busy` only a tick completes, in a transfer only the data access of its direction. -/
theorem State.completedBy_iff_of_busy (n : Ticks) (hst : s.st = .busy) :
    s.completedBy (.tick n) ↔ s.delay.toNat ≤ n.toNat := by
  simp [State.completedBy, hst]

theorem State.completedBy_iff_of_xferRead (hi : readsData i) (hst : s.st = .xferRead) :
    s.completedBy i ↔ s.pos + 1 = s.len := by
  simp [State.completedBy, hi, hst]

theorem State.completedBy_iff_of_xferWrite (hi : dataByteOf i = some v) (hst : s.st = .xferWrite) :
    s.completedBy i ↔ s.pos + 1 = s.len := by
  simp [State.completedBy, hi, hst]

/-! ### What an operation emits and where it leaves `st` (R154, R155, R166) -/

/-- An operation that writes a command byte is that command. -/
theorem writeCommand_of_exec (hi : commandByteOf i = some v) (ht : exec i s = .next t) :
    s.clearOutputs.writeCommand v = .next t := by
  rwa [exec_eq_runShape, (commandByteOf_iff i v).1 hi] at ht

/-- An operation that completes leaves `Idle` and emits one `IRQ`. -/
theorem exec_completes (hc : s.completedBy i) (ht : exec i s = .next t) : t.st = .idle ∧ t.events = [.irq] := by
  rcases hc with ⟨n, rfl, hst, hle⟩ | ⟨hi, hst, hp⟩ | ⟨v, hi, hst, hp⟩
  · cases (exec_tick_expires s hst hle).symm.trans ht
    exact ⟨rfl, rfl⟩
  · cases (exec_dataRead_last s hi hst hp).symm.trans ht
    exact ⟨rfl, rfl⟩
  · obtain ⟨hidle, hev, _⟩ := commit_frame ((exec_dataWrite_commit s hi hst hp).symm.trans ht) rfl
    exact ⟨hidle, hev⟩

/-- Every other operation but `RESET` leaves `st` alone and emits nothing. -/
theorem exec_silent (hi : commandByteOf i = none) (hreset : i ≠ .reset) (hc : ¬s.completedBy i)
    (ht : exec i s = .next t) : t.st = s.st ∧ t.events = [] := by
  obtain ⟨hread, htick, _, _, hres, _⟩ := shapeOf_iff i
  have hcase := exec_case ht
  generalize hsh : shapeOf i = sh at hcase
  cases hcase with
  | command v => cases hi.symm.trans ((commandByteOf_iff i v).2 hsh)
  | readLast hst hp => exact absurd (.inr (.inl ⟨hread.2 hsh, hst, hp⟩)) hc
  | writeCommit v hst hp => exact absurd (.inr (.inr ⟨v, (dataByteOf_iff i v).2 hsh, hst, hp⟩)) hc
  | tickExpires n hst hle => exact absurd (.inl ⟨n, (htick n).2 hsh, hst, hle⟩) hc
  | reset => exact absurd (hres.2 hsh) hreset
  | _ => subst t; exact ⟨rfl, rfl⟩

/-- The events of an operation and the `st` it leaves: those of the command it writes, of a completion, of `RESET`, or
none at all. -/
inductive EventCase (s t : State) (i : Instr) : Prop where
  | command (v : Byte) (byte : commandByteOf i = some v) (outcome : CommandCase s t v)
  | completes (cause : s.completedBy i) (st : t.st = .idle) (events : t.events = [.irq])
  | reset (byte : commandByteOf i = none) (cause : ¬s.completedBy i) (st : t.st = .idle) (events : t.events = [])
  | silent (byte : commandByteOf i = none) (cause : ¬s.completedBy i) (st : t.st = s.st) (events : t.events = [])

/-- The cases of `EventCase` are all there are. -/
theorem exec_eventCase (ht : exec i s = .next t) : EventCase s t i := by
  rcases hi : commandByteOf i with _ | v
  · by_cases hc : s.completedBy i
    · obtain ⟨hst, hev⟩ := exec_completes hc ht
      exact .completes hc hst hev
    · by_cases hreset : i = .reset
      · subst hreset
        cases ht
        exact .reset hi hc rfl rfl
      · obtain ⟨hst, hev⟩ := exec_silent hi hreset hc ht
        exact .silent hi hc hst hev
  · exact .command v hi (writeCommand_case (writeCommand_of_exec hi ht))

/-! ### The events of a command (R154, R155) -/

/-- A type I command is no other command. -/
theorem not_typeOne {c : CommandClass} (h : isTypeOne c = true) :
    c ≠ .rdSec ∧ c ≠ .wrSec ∧ c ≠ .rdAddr ∧ c ≠ .forceInt ∧ c ≠ .other := by
  cases c <;> simp [isTypeOne] at h ⊢

/-- A command emits `IRQ` where it fails at decode and for the immediate bit of Force Interrupt. -/
theorem CommandCase.irq_mem_iff (h : CommandCase s t v) :
    Event.irq ∈ t.events ↔
      ((commandClass v = .rdSec ∧ ¬s.readSucceeds) ∨ (commandClass v = .wrSec ∧ ¬s.writeOpens)) ∨
        (commandClass v = .forceInt ∧ v.getLsbD 3 = true) := by
  cases h with
  | typeOne c st ev =>
    obtain ⟨hrd, hwr, _, hfi, _⟩ := not_typeOne c
    simp [ev, hrd, hwr, hfi]
  | forceInt c st ev =>
    rw [ev, c]
    cases v.getLsbD 3 <;> simp
  | _ => simp [*]

/-- A command emits `DRQ_EV` where it opens a transfer. -/
theorem CommandCase.drqEv_mem_iff (h : CommandCase s t v) :
    Event.drqEv ∈ t.events ↔
      (commandClass v = .rdSec ∧ s.readSucceeds) ∨ (commandClass v = .wrSec ∧ s.writeOpens) ∨
        commandClass v = .rdAddr := by
  cases h with
  | typeOne c st ev =>
    obtain ⟨hrd, hwr, hra, _, _⟩ := not_typeOne c
    simp [ev, hrd, hwr, hra]
  | forceInt c st ev =>
    rw [ev, c]
    cases v.getLsbD 3 <;> simp
  | _ => simp [*]

/-- A command emits nothing, one `IRQ` on its way to `Idle`, or one `DRQ_EV` with `DRQ` set. -/
theorem CommandCase.events_cases (h : CommandCase s t v) :
    t.events = [] ∨ (t.events = [.irq] ∧ t.st = .idle) ∨ (t.events = [.drqEv] ∧ t.drq = true) := by
  cases h with
  | typeOne _ _ ev | other _ _ ev => exact .inl ev
  | readFails _ _ st ev | writeFails _ _ st ev => exact .inr (.inl ⟨ev, st⟩)
  | readOpens _ _ _ ev drq | writeOpens _ _ _ ev drq | address _ _ ev drq => exact .inr (.inr ⟨ev, drq⟩)
  | forceInt _ st ev =>
    split at ev
    · exact .inr (.inl ⟨ev, st⟩)
    · exact .inl ev

/-- The events of a command and the `st` it leaves, by its class: the command rows of R166. -/
theorem CommandCase.transition (h : CommandCase s t v) :
    (isTypeOne (commandClass v) = true → t.st = .busy ∧ t.events = []) ∧
    (commandClass v = .rdSec → s.readSucceeds → t.st = .xferRead ∧ t.events = [.drqEv]) ∧
    (commandClass v = .rdSec → ¬s.readSucceeds → t.st = .idle ∧ t.events = [.irq]) ∧
    (commandClass v = .wrSec → s.writeOpens → t.st = .xferWrite ∧ t.events = [.drqEv]) ∧
    (commandClass v = .wrSec → ¬s.writeOpens → t.st = .idle ∧ t.events = [.irq]) ∧
    (commandClass v = .rdAddr → t.st = .xferRead ∧ t.events = [.drqEv]) ∧
    (commandClass v = .forceInt → t.st = .idle ∧ t.events = if v.getLsbD 3 then [.irq] else []) ∧
    (commandClass v = .other → t.st = .idle ∧ t.events = []) := by
  cases h with
  | typeOne c st ev =>
    obtain ⟨hrd, hwr, hra, hfi, hot⟩ := not_typeOne c
    simp [st, ev, hrd, hwr, hra, hfi, hot]
  | _ => simp [isTypeOne, *]

/-- An operation emits `IRQ` where it completes the command in progress, and where the command it writes does. -/
theorem exec_irq_mem_iff (ht : exec i s = .next t) :
    Event.irq ∈ t.events ↔ s.completedBy i ∨
      (∃ v, commandByteOf i = some v ∧
        ((commandClass v = .rdSec ∧ ¬s.readSucceeds) ∨ (commandClass v = .wrSec ∧ ¬s.writeOpens))) ∨
      (∃ v, commandByteOf i = some v ∧ commandClass v = .forceInt ∧ v.getLsbD 3 = true) := by
  cases exec_eventCase ht with
  | command v hi hc =>
    have hn : ¬s.completedBy i := fun h => by cases hi.symm.trans (commandByteOf_of_completedBy h)
    simp only [hc.irq_mem_iff, hi, hn, Option.some.injEq, exists_eq_left', false_or]
  | completes hc _ ev => simp [ev, hc]
  | reset hi hn _ ev | silent hi hn _ ev => simp [ev, hi, hn]

/-- The `IRQ` an operation emits is its one event. -/
theorem exec_events_of_irq_mem (ht : exec i s = .next t) (hm : Event.irq ∈ t.events) : t.events = [.irq] := by
  cases exec_eventCase ht with
  | command v _ hc =>
    rcases hc.events_cases with ev | ⟨ev, _⟩ | ⟨ev, _⟩
    · simp [ev] at hm
    · exact ev
    · simp [ev] at hm
  | completes _ _ ev => exact ev
  | reset _ _ _ ev | silent _ _ _ ev => simp [ev] at hm

/-! ### How many `IRQ` pulses (R173) -/

/-- What the command in progress is worth: the one `IRQ` it may still raise. -/
def State.pendingIrqs (s : State) : Nat := if s.st = .idle then 0 else 1

/-- An operation raises no more than the `IRQ` pending and one for the command it writes. -/
theorem exec_irqs_le (ht : exec i s = .next t) :
    t.events.count .irq + t.pendingIrqs ≤ (if (commandByteOf i).isSome then 1 else 0) + s.pendingIrqs := by
  unfold State.pendingIrqs
  cases exec_eventCase ht with
  | command v hi hc =>
    rw [hi]
    rcases hc.events_cases with ev | ⟨ev, st⟩ | ⟨ev, _⟩
    · rw [ev]
      split <;> simp
    · rw [ev, st]
      simp
    · rw [ev]
      split <;> simp
  | completes hc st ev => simp [ev, st, hc.st_ne_idle]
  | reset _ _ st ev => simp [ev, st]
  | silent hi _ st ev => simp [ev, st]

/-- An image operation of the host emits nothing and leaves `st` alone. -/
theorem HostCase.events_st {op : HostOp} (h : HostCase s t op) : t.events = [] ∧ t.st = s.st := by
  cases h <;> subst t <;> exact ⟨rfl, rfl⟩

/-- A program that completes does so operation by operation. -/
theorem perform_cons_eq_some {u : State} {is : List Instr} {out : List (Option Byte × List Event)}
    (h : s.perform (i :: is) = some (u, out)) :
    ∃ t rest, exec i s = .next t ∧ t.perform is = some (u, rest) ∧ out = (t.reply, t.events) :: rest := by
  simp only [State.perform] at h
  split at h
  next t ht =>
    split at h
    next u' rest hrest =>
      cases h
      exact ⟨t, rest, ht, hrest, rfl⟩
    next => cases h
  next => cases h
  next => cases h

/-- A program raises no more than the `IRQ` pending at its start and one for each command it writes. -/
theorem perform_irqs_le {is : List Instr} {out : List (Option Byte × List Event)}
    (h : s.perform is = some (t, out)) :
    irqCount out + t.pendingIrqs ≤ (is.filter fun i => (commandByteOf i).isSome).length + s.pendingIrqs := by
  induction is generalizing s out with
  | nil =>
    cases h
    exact Nat.le_refl _
  | cons i is ih =>
    obtain ⟨u, rest, hi, hrest, rfl⟩ := perform_cons_eq_some h
    have hfirst := exec_irqs_le hi
    have hothers := ih hrest
    have hcount : irqCount ((u.reply, u.events) :: rest) = u.events.count .irq + irqCount rest := by
      simp [irqCount]
    rw [hcount, List.filter_cons]
    split at hfirst
    next hb =>
      rw [if_pos hb, List.length_cons]
      omega
    next hb =>
      rw [if_neg hb]
      omega

/-! ### How long `RNF` and `WP` last (R152, R159) -/

/-- What an operation that fails leaves: `Idle` with nothing open and one `IRQ`, the images and the registers but `DR`
as they were (R158). -/
structure State.FailsTo (s t : State) : Prop where
  st : t.st = .idle
  busy : t.busy = false
  drq : t.drq = false
  delay : t.delay = 0
  events : t.events = [.irq]
  images : t.images = s.images
  tr : t.tr = s.tr
  sr : t.sr = s.sr
  cr : t.cr = s.cr

/-- What an operation does to the failure flags. -/
inductive FlagCase (s t : State) (sh : Shape) : Prop where
  | kept (rnf : t.rnf = s.rnf) (wp : t.wp = s.wp)
  | cleared (cause : (∃ v, sh = .command v) ∨ sh = .reset) (rnf : t.rnf = false) (wp : t.wp = false)
  | fails (flags : (∃ v, sh = .command v) ∨ ((s.rnf = true → t.rnf = true) ∧ (s.wp = true → t.wp = true)))
      (left : s.FailsTo t)

/-- Raising a flag clears no flag. -/
theorem State.raise_keeps_flags (s : State) (f : Failure) :
    (s.rnf = true → (s.raise f).rnf = true) ∧ (s.wp = true → (s.raise f).wp = true) := by
  cases f
  · exact ⟨fun _ => rfl, id⟩
  · exact ⟨id, fun _ => rfl⟩

/-- A command clears both flags or fails. -/
theorem writeCommand_flagCase (ht : s.clearOutputs.writeCommand v = .next t) : FlagCase s t (.command v) := by
  obtain ⟨_, himages, hsr, _, hcr, _⟩ := writeCommand_frame ht
  cases writeCommand_case ht with
  | readFails c _ st ev drq busy delay | writeFails c _ st ev drq busy delay =>
    have htr : t.tr = s.tr := by apply writeCommand_tr ht <;> simp [c]
    exact .fails (.inl ⟨v, rfl⟩) ⟨st, busy, drq, delay, ev, himages, htr, hsr, hcr⟩
  | typeOne _ _ _ _ rnf wp | readOpens _ _ _ _ _ rnf wp | writeOpens _ _ _ _ _ rnf wp | address _ _ _ _ rnf wp
  | forceInt _ _ _ _ rnf wp | other _ _ _ _ rnf wp => exact .cleared (.inl ⟨v, rfl⟩) rnf wp

/-- The cases of `FlagCase` are all there are. -/
theorem ExecCase.flagCase (h : ExecCase s t sh) : FlagCase s t sh := by
  cases h with
  | command v hv => exact writeCommand_flagCase hv
  | writeCommit v _ _ hc =>
    obtain ⟨st, ev, busy, drq, delay, htr, hsr, _, hcr, _⟩ := commit_frame hc rfl
    rcases State.commit_next hc with ⟨m, img, img', _, _, rfl⟩ | ⟨f, rfl⟩
    · exact .kept rfl rfl
    · exact .fails (.inr ((s.clearOutputs.collectByte v).raise_keeps_flags f))
        ⟨st, busy, drq, delay, ev, by simp, htr, hsr, hcr⟩
  | reset e =>
    subst e
    exact .cleared (.inr rfl) rfl rfl
  | _ => subst t; exact .kept rfl rfl

/-- Nothing but a command or `RESET` clears a failure flag. -/
theorem FlagCase.keeps (h : FlagCase s t sh) (hcommand : ∀ v, sh ≠ .command v) (hreset : sh ≠ .reset) :
    (s.rnf = true → t.rnf = true) ∧ (s.wp = true → t.wp = true) := by
  cases h with
  | kept rnf wp => exact ⟨rnf.trans, wp.trans⟩
  | cleared cause =>
    rcases cause with ⟨v, hv⟩ | hr
    · exact absurd hv (hcommand v)
    · exact absurd hr hreset
  | fails flags =>
    rcases flags with ⟨v, hv⟩ | hkeeps
    · exact absurd hv (hcommand v)
    · exact hkeeps

/-- A failure flag rises only in an operation that fails. -/
theorem FlagCase.failsTo_of_rise (h : FlagCase s t sh)
    (hrise : (t.rnf = true ∧ s.rnf = false) ∨ (t.wp = true ∧ s.wp = false)) : s.FailsTo t := by
  cases h with
  | fails _ left => exact left
  | kept rnf wp => simp [rnf, wp] at hrise
  | cleared _ rnf wp => simp [rnf, wp] at hrise

end

/-! ### The statements -/

/-- Settles O15: a reachable state meets the invariant, so its selected slot is live. -/
theorem reachableStepsNeverFault : Obligations.ReachableStepsNeverFault := fun _ _ f hp hs =>
  step_ne_fault (hs.inv hp).activeSlotLive f

/-- Settles O49: `exec_irq_mem_iff`, with the first three causes written out. -/
theorem irqCauses : Obligations.IrqCauses := fun _ _ _ ht =>
  ⟨by simpa only [State.completedBy, or_assoc] using exec_irq_mem_iff ht, exec_events_of_irq_mem ht⟩

/-- Settles O50: `CommandCase.drqEv_mem_iff`; no other operation emits `DRQ_EV`. -/
theorem drqEventCauses : Obligations.DrqEventCauses := by
  intro i s t ht
  cases exec_eventCase ht with
  | command v hi hc =>
    refine ⟨hc.drqEv_mem_iff.trans (by simp [hi]), fun hm => ?_⟩
    rcases hc.events_cases with ev | ⟨ev, _⟩ | h
    · simp [ev] at hm
    · simp [ev] at hm
    · exact h
  | completes hc _ ev => simp [ev, commandByteOf_of_completedBy hc]
  | reset hi _ _ ev | silent hi _ _ ev => simp [ev, hi]

/-- Settles O51: `exec_irqs_le`, `HostCase.events_st` and `perform_irqs_le`. -/
theorem irqsNeverExceedCommands : Obligations.IrqsNeverExceedCommands :=
  ⟨fun _ _ _ ht => exec_irqs_le ht, fun _ _ _ ht => (execHost_case ht).events_st,
    fun _ _ _ _ h => perform_irqs_le h⟩

/-- Settles O54: the command rows by `CommandCase.transition`, the rows of a tick and of the data accesses by
`exec_completes` and `exec_silent`, `RESET` by computing it. -/
theorem transitionTable : Obligations.TransitionTable := by
  intro i s t ht
  refine ⟨fun v hi => (writeCommand_case (writeCommand_of_exec hi ht)).transition, ?_, fun hi hst => ?_,
    fun v hi hst => ?_, ?_, fun hi hreset htick hread hwrite => ?_⟩
  · rintro n rfl hst
    have hiff := State.completedBy_iff_of_busy n hst
    refine ⟨fun h => exec_completes (hiff.2 (Nat.le_of_sub_eq_zero h)) ht, fun h => ?_⟩
    have hc := mt hiff.1 (Nat.not_le.2 (Nat.lt_of_sub_pos h))
    exact hst ▸ exec_silent (commandByteOf_tick n) nofun hc ht
  · have hiff := State.completedBy_iff_of_xferRead hi hst
    refine ⟨fun h => exec_completes (hiff.2 h) ht, fun h => ?_⟩
    have hreset : i ≠ .reset := by
      rintro rfl
      simp [readsData] at hi
    exact hst ▸ exec_silent (commandByteOf_of_readsData hi) hreset (mt hiff.1 h) ht
  · have hiff := State.completedBy_iff_of_xferWrite hi hst
    refine ⟨fun h => exec_completes (hiff.2 h) ht, fun h => ?_⟩
    have hreset : i ≠ .reset := by
      rintro rfl
      cases hi.symm.trans (dataByteOf_eq .reset)
    exact hst ▸ exec_silent (commandByteOf_of_dataByteOf hi) hreset (mt hiff.1 h) ht
  · rintro rfl
    cases ht
    exact ⟨rfl, rfl⟩
  · refine exec_silent hi hreset ?_ ht
    rintro (⟨n, hn, hst, _⟩ | ⟨hr, hst, _⟩ | ⟨v, hv, hst, _⟩)
    · exact htick n hn hst
    · exact hread hr hst
    · exact hwrite v hv hst

/-- Settles O55: `FlagCase.keeps` and `FlagCase.failsTo_of_rise`. -/
theorem failureFlagsLastUntilNextCommand : Obligations.FailureFlagsLastUntilNextCommand := by
  intro i s t ht
  have hflags := (exec_case ht).flagCase
  refine ⟨fun hi hreset => hflags.keeps (fun v hv => ?_) fun hr => ?_, fun hrise => ?_⟩
  · cases hi.symm.trans ((commandByteOf_iff i v).2 hv)
  · obtain ⟨_, _, _, _, hres, _⟩ := shapeOf_iff i
    exact hreset (hres.2 hr)
  · obtain ⟨st, busy, drq, delay, ev, himages, htr, hsr, hcr⟩ := hflags.failsTo_of_rise hrise
    exact ⟨st, busy, drq, delay, ev, himages, htr, hsr, hcr⟩

end Sys2Proof.Machine
end

section
/-! The statements on `RESET` and on the operations to which the spec gives no meaning: what `RESET` writes and leaves,
and how the transfer operations stop where the selected slot refers to a closed image. -/

namespace Sys2Proof.Machine

/-! ### The stop on a closed image (R183, log entry 9) -/

section

variable {s : State} {m : Nat}

/-- Read Sector on a closed image stops before it addresses a sector. -/
theorem State.rdSecBody_closed (ha : s.activeSlot = .closed m) : s.rdSecBody = .fault (.closedImage m) := by
  simp only [State.rdSecBody, ha]

/-- Write Sector on a closed image stops before it tests write protection. -/
theorem State.wrSecBody_closed (ha : s.activeSlot = .closed m) : s.wrSecBody = .fault (.closedImage m) := by
  simp only [State.wrSecBody, ha]

/-- The prologue of a command leaves the selected slot alone, so `RDSEC` stops as its body does. -/
theorem exec_rdSec_closed (x : BitVec 5) (ha : s.activeSlot = .closed m) :
    exec (.rdSec x) s = .fault (.closedImage m) :=
  State.rdSecBody_closed (s := s.clearOutputs.prologue (0b100#3 ++ x)) ha

/-- The prologue of a command leaves the selected slot alone, so `WRSEC` stops as its body does. -/
theorem exec_wrSec_closed (x : BitVec 5) (ha : s.activeSlot = .closed m) :
    exec (.wrSec x) s = .fault (.closedImage m) :=
  State.wrSecBody_closed (s := s.clearOutputs.prologue (0b101#3 ++ x)) ha

/-- Collecting the last byte leaves the selected slot alone, so the last data write stops as the commit does. -/
theorem exec_lastDataWrite_closed {i : Instr} {v : Byte} (hi : dataByteOf i = some v) (hst : s.st = .xferWrite)
    (hp : s.pos + 1 = s.len) (ha : s.activeSlot = .closed m) : exec i s = .fault (.closedImage m) := by
  rw [exec_dataWrite_commit s hi hst hp]
  exact State.commit_closed ha

end

/-! ### The statements -/

/-- Settles O34: the premises say that the selected slot is closed, and each operation stops at such a slot. -/
theorem closedImageStopsTransfers : Obligations.ClosedImageStopsTransfers := by
  intro s m hslot himg
  have ha : s.activeSlot = .closed m := (State.activeSlot_closed s).2 ⟨hslot, himg⟩
  exact ⟨fun x => ⟨exec_rdSec_closed x ha, exec_wrSec_closed x ha⟩,
    fun i v hi hst hp => exec_lastDataWrite_closed hi hst hp ha⟩

/-- Settles O11: the word is the encoding of `RESET`; the state written out is `resetBody` of the cleared outputs, and
its `NOTREADY` reads the slot that `RESET_CONTROL` selects. -/
theorem resetOperation : Obligations.ResetOperation :=
  ⟨decode_encode .reset, fun s =>
    ⟨s.clearOutputs.resetBody, rfl, rfl, State.notReady_eq_true s.clearOutputs.resetBody⟩⟩

end Sys2Proof.Machine
end
